-- ==== Sys2Proof/Word.lean ====
section
/-! DEFINITION. The word of the machine: every register, every WMEM word and every command word has 32 bits,
bit 0 the least significant (00_scope.md R9). -/

namespace Sys2Proof

/-- A 32-bit word (R9). Unsigned unless a definition says signed. -/
abbrev Word := BitVec 32

end Sys2Proof
end

