-- ==== Sys2Proof/Syntax.lean ====
section
/-! DEFINITION. The commands of the engine, one constructor for each row of spec/opcode_table.json (30_encoding.md
R72). A command word has no operand field (R70, R79): operands come from ARG0-ARG5 (R71). -/

namespace Sys2Proof

/-- The 16 commands (R72), in the order of the opcode table. -/
inductive Instr where
  | nop        -- NOP, R112
  | clmul32    -- CLMUL32, R122
  | pmulGs     -- PMUL.GS, R123
  | pmulKa     -- PMUL.KA, R123
  | pmuluGs    -- PMULU.GS, R126
  | pmuluKa    -- PMULU.KA, R126
  | pmod       -- PMOD, R144
  | jpoly      -- JPOLY, R146
  | mmulM1     -- MMUL.M1, R168
  | mmulM2     -- MMUL.M2, R168
  | mpowM1     -- MPOW.M1, R171
  | mpowM2     -- MPOW.M2, R171
  | mrgApply   -- MRG_APPLY, R170
  | mrgJump    -- MRG_JUMP, R172
  | mtApply    -- MT_APPLY, R196
  | mtJump     -- MT_JUMP, R202
  deriving DecidableEq, Repr

end Sys2Proof
end

