-- ==== Sys2Proof/WellFormed.lean ====
section
/-! DEFINITION. When the fields of a command word are legal: the checks that the bullets of 30_encoding.md R73 name,
one definition each, over the fields of format CMD32 (R70). -/

namespace Sys2Proof

/-- The fields of a command word (R70): OP 7:0, ALG 9:8, reserved 11:10, COMP 12, reserved 31:13. -/
structure CmdFields where
  op      : BitVec 8
  alg     : BitVec 2
  rsvdLow : BitVec 2
  comp    : BitVec 1
  rsvdHigh : BitVec 19
  deriving DecidableEq, Repr

/-- OP is one of the values the table of R72 lists. -/
def CmdFields.opKnown (f : CmdFields) : Bool :=
  [0x00#8, 0x01#8, 0x02#8, 0x03#8, 0x08#8, 0x09#8, 0x10#8, 0x11#8, 0x12#8, 0x13#8, 0x18#8, 0x19#8].contains f.op

/-- ALG is 0 or 1 (R73: "ALG = 2 or 3" is illegal). -/
def CmdFields.algKnown (f : CmdFields) : Bool := f.alg == 0#2 || f.alg == 1#2

/-- ALG is 0 unless OP is 0x02 or 0x03 (R73). -/
def CmdFields.algAllowed (f : CmdFields) : Bool := f.alg == 0#2 || f.op == 0x02#8 || f.op == 0x03#8

/-- COMP is 0 unless OP is 0x10 or 0x11 (R73). -/
def CmdFields.compAllowed (f : CmdFields) : Bool := f.comp == 0#1 || f.op == 0x10#8 || f.op == 0x11#8

/-- No reserved bit is set (R73). -/
def CmdFields.reservedClear (f : CmdFields) : Bool := f.rsvdLow == 0#2 && f.rsvdHigh == 0#19

/-- The fields are those of a legal command word: no bullet of R73 applies. -/
def CmdFields.wellFormed (f : CmdFields) : Bool :=
  f.opKnown && f.algKnown && f.algAllowed && f.compAllowed && f.reservedClear

/-- The OP, ALG and COMP columns of R72, with the reserved fields 0 (R70). -/
def Instr.fields : Instr → CmdFields
  | .nop      => ⟨0x00#8, 0#2, 0#2, 0#1, 0#19⟩
  | .clmul32  => ⟨0x01#8, 0#2, 0#2, 0#1, 0#19⟩
  | .pmulGs   => ⟨0x02#8, 0#2, 0#2, 0#1, 0#19⟩
  | .pmulKa   => ⟨0x02#8, 1#2, 0#2, 0#1, 0#19⟩
  | .pmuluGs  => ⟨0x03#8, 0#2, 0#2, 0#1, 0#19⟩
  | .pmuluKa  => ⟨0x03#8, 1#2, 0#2, 0#1, 0#19⟩
  | .pmod     => ⟨0x08#8, 0#2, 0#2, 0#1, 0#19⟩
  | .jpoly    => ⟨0x09#8, 0#2, 0#2, 0#1, 0#19⟩
  | .mmulM1   => ⟨0x10#8, 0#2, 0#2, 0#1, 0#19⟩
  | .mmulM2   => ⟨0x10#8, 0#2, 0#2, 1#1, 0#19⟩
  | .mpowM1   => ⟨0x11#8, 0#2, 0#2, 0#1, 0#19⟩
  | .mpowM2   => ⟨0x11#8, 0#2, 0#2, 1#1, 0#19⟩
  | .mrgApply => ⟨0x12#8, 0#2, 0#2, 0#1, 0#19⟩
  | .mrgJump  => ⟨0x13#8, 0#2, 0#2, 0#1, 0#19⟩
  | .mtApply  => ⟨0x18#8, 0#2, 0#2, 0#1, 0#19⟩
  | .mtJump   => ⟨0x19#8, 0#2, 0#2, 0#1, 0#19⟩

/-- A command is well formed when its fields are. The constructors take no operand, so every command is. -/
def Instr.wellFormed (i : Instr) : Bool := i.fields.wellFormed

end Sys2Proof
end

