-- ==== Sys2Proof/Decode.lean ====
section
/-! DEFINITION. The decoder of command words, total and rejecting by name, and after it the encoder
(30_encoding.md R70 to R73). -/

namespace Sys2Proof

/-- Why a command word is illegal: the bullets of R73, in the rule's order. -/
inductive DecodeReject where
  | unknownOp        -- "an OP value not in the table"
  | unknownAlg       -- "ALG = 2 or 3"
  | algNotAllowed    -- "ALG ≠ 0 with an OP other than 0x02 and 0x03"
  | compNotAllowed   -- "COMP = 1 with an OP other than 0x10 and 0x11"
  | reservedBitSet   -- "any reserved bit set"
  deriving DecidableEq, Repr

/-- The fields of a command word (R70). -/
def fieldsOfWord (w : Word) : CmdFields where
  op := w.extractLsb' 0 8
  alg := w.extractLsb' 8 2
  rsvdLow := w.extractLsb' 10 2
  comp := w.extractLsb' 12 1
  rsvdHigh := w.extractLsb' 13 19

/-- The name of the first bullet of R73 that makes a word illegal. The last answer is for a word that passes the
other four checks and is still not in the table: one with a reserved bit set. -/
def rejectReason (f : CmdFields) : DecodeReject :=
  if !f.opKnown then .unknownOp
  else if !f.algKnown then .unknownAlg
  else if !f.algAllowed then .algNotAllowed
  else if !f.compAllowed then .compNotAllowed
  else .reservedBitSet

/-- Decoding by exact match against the words of R72 (mask 0xFFFFFFFF in every row). -/
def decode (w : Word) : Except DecodeReject Instr :=
  match w.toNat with
  | 0x00000000 => .ok .nop
  | 0x00000001 => .ok .clmul32
  | 0x00000002 => .ok .pmulGs
  | 0x00000102 => .ok .pmulKa
  | 0x00000003 => .ok .pmuluGs
  | 0x00000103 => .ok .pmuluKa
  | 0x00000008 => .ok .pmod
  | 0x00000009 => .ok .jpoly
  | 0x00000010 => .ok .mmulM1
  | 0x00001010 => .ok .mmulM2
  | 0x00000011 => .ok .mpowM1
  | 0x00001011 => .ok .mpowM2
  | 0x00000012 => .ok .mrgApply
  | 0x00000013 => .ok .mrgJump
  | 0x00000018 => .ok .mtApply
  | 0x00000019 => .ok .mtJump
  | _ => .error (rejectReason (fieldsOfWord w))

/-- The word with the given fields (R70). -/
def wordOfFields (f : CmdFields) : Word :=
  f.op.setWidth 32 ||| (f.alg.setWidth 32 <<< 8) ||| (f.rsvdLow.setWidth 32 <<< 10) |||
    (f.comp.setWidth 32 <<< 12) ||| (f.rsvdHigh.setWidth 32 <<< 13)

/-- The command word of a command: its OP, ALG and COMP of R72 in the places of R70. -/
def encode (i : Instr) : Word := wordOfFields i.fields

/-- The command that the decoder reads from the table's bits `w` of `nbits` bits. A command is one word (R70), so
bits above bit 31 belong to no command. -/
def decodeTableWord (nbits w : Nat) : Option Instr :=
  let v := w % 2 ^ nbits
  if v < 2 ^ 32 then (decode (BitVec.ofNat 32 v)).toOption else none

end Sys2Proof
end

