-- ==== Sys2Proof/Machine/Constants.lean ====
section
/-! DEFINITION. The fixed parameters of every PJE (00_scope.md R7) and the constants of the two generators
(43_mrg32k3a_matrix.md R160, 44_mt19937_jump.md R190). -/

namespace Sys2Proof.Machine

/-- K, the degree of φ (R7, R190). -/
abbrev degK : Nat := 19937

/-- N, the number of MT19937 state words (R7, R190). -/
abbrev mtN : Nat := 624

/-- M, the MT19937 middle offset (R7, R190). -/
abbrev mtM : Nat := 397

/-- U, the upper mask (R190). -/
abbrev mtU : Word := 0x80000000#32

/-- L, the lower mask (R190). -/
abbrev mtL : Word := 0x7FFFFFFF#32

/-- A, the twist constant (R190). -/
abbrev mtA : Word := 0x9908B0DF#32

/-- NW, the words of a reduced polynomial (R7). -/
abbrev polyWords : Nat := 624

/-- NMAX, the largest operand length of PMUL and PMULU (R7). -/
abbrev maxLen : Nat := 624

/-- DMAX, how many base-8 digits the tables cover (R7). -/
abbrev digitCount : Nat := 21

/-- STEP_LIMIT, the largest step accepted, 2⁶³ − 1 (R7). -/
abbrev stepLimit : Nat := 2 ^ 63 - 1

/-- m₁ = 2³² − 209 (R7, R160). -/
abbrev mrgM1 : Nat := 4294967087

/-- m₂ = 2³² − 22853 (R7, R160). -/
abbrev mrgM2 : Nat := 4294944443

/-- a₁₂ (R160). -/
abbrev mrgA12 : Int := 1403580

/-- a₁₃ (R160). -/
abbrev mrgA13 : Int := -810728

/-- a₂₁ (R160). -/
abbrev mrgA21 : Int := 527612

/-- a₂₃ (R160). -/
abbrev mrgA23 : Int := -1370589

end Sys2Proof.Machine
end

