-- ==== Sys2Proof/Config.lean ====
section
/-! DEFINITION. What one PJE fixes and the spec leaves open: the open parameters of 92_eei_decisions.md and the
values that 93_implementation_defined.md calls `any value`. The latter are opaque: no proof can see them. -/

namespace Sys2Proof.Config

/-- WMEM_WORDS of the power-on state `State.reset` (R8). DESIGN CHOICE (log 3): the value the spec's examples assume.
Every rule reads WMEM_WORDS from PARAM, so statements about all states hold for every value. -/
def wmemWords : Nat := 8192

/-- The contents of WMEM word `a` after power-on: unspecified (R252, I6). A free value (log 2). -/
opaque powerOnWord : Nat → Word

/-- The `k`-th value that the machine leaves open while it runs: what a WMEM read returns while Busy (R256, I5) and
what a reset while Busy leaves in the abandoned command's region (R251, I7). A free value (logs 4 and 5). -/
opaque anyWord : Nat → Word

/-- The byte orders a host bus bridge can have (R52). -/
inductive ByteOrder where
  | little
  | big
  deriving DecidableEq, Repr, Inhabited

/-- HOST_BYTE_ORDER, an open parameter outside the PJE: no rule reads it (R52; log 11). -/
opaque hostByteOrder : ByteOrder

/-- PJE_BASE, where the register window lies in the host's address space: no rule depends on it (R56; log 11). -/
opaque pjeBase : Nat

/-- The host address of the register or word at byte offset `off` (R56). -/
def hostAddress (off : Nat) : Nat := pjeBase + off

end Sys2Proof.Config
end

