-- ==== Sys2Proof/Machine/Bus.lean ====
section
/-! DEFINITION. What reaches the PJE from outside: host transactions, engine turns and resets (00_scope.md R3,
20_memory.md R51, R58; 70_reset_and_hazards.md R250), and the places a byte offset can name (10_state.md R32). -/

namespace Sys2Proof.Machine

/-- The width of a bus transaction. Only `w32` is part of the interface (R51). -/
inductive Width where
  | w8
  | w16
  | w32
  | w64
  deriving DecidableEq, Repr

/-- What a transaction does. A write carries the 32-bit value of `RegWrite(off, v)`; the data of a write of another
width is not represented, since such a write is refused (R51; log 12). -/
inductive TxnOp where
  | read
  | write (v : Word)
  deriving DecidableEq, Repr

/-- One host transaction at byte offset `off` from PJE_BASE (R51, R56). -/
structure Txn where
  width : Width
  off   : Nat
  op    : TxnOp
  deriving DecidableEq, Repr

/-- The transactions of the interface: 32 bits wide and 4-byte aligned (R51, R53). -/
abbrev Txn.wellFormed (t : Txn) : Prop := t.width = .w32 ∧ t.off % 4 = 0

/-- `RegRead(off)` (R51). -/
def regRead (off : Nat) : Txn := ⟨.w32, off, .read⟩

/-- `RegWrite(off, v)` (R51). -/
def regWrite (off : Nat) (v : Word) : Txn := ⟨.w32, off, .write v⟩

/-- What moves next (R58: one at a time, in order). -/
inductive Input where
  | host (t : Txn)   -- the host's next transaction
  | engine           -- the engine may take its completion step here (R104, R108; log 6)
  | reset            -- the reset input is asserted here (R250)
  deriving DecidableEq, Repr

/-- The operand registers ARG0 … ARG5 by their names (R22). -/
inductive ArgReg where
  | dst      -- ARG0
  | srcA     -- ARG1
  | srcB     -- ARG2
  | len      -- ARG3
  | stepLo   -- ARG4
  | stepHi   -- ARG5
  deriving DecidableEq, Repr

/-- What a byte offset names (R32). -/
inductive Target where
  | cmd
  | status
  | err
  | param
  | arg (r : ArgReg)
  | wmem (w : Nat)
  | reserved           -- 0x028 … 0xFFFC
  | unmapped           -- above the WMEM aperture
  deriving DecidableEq, Repr

/-- The register map of R32 for a PJE with `wmemWords` words of WMEM; `off` is a multiple of 4 (R51). -/
def targetOf (wmemWords off : Nat) : Target :=
  match off with
  | 0x000 => .cmd
  | 0x004 => .status
  | 0x008 => .err
  | 0x00C => .param
  | 0x010 => .arg .dst
  | 0x014 => .arg .srcA
  | 0x018 => .arg .srcB
  | 0x01C => .arg .len
  | 0x020 => .arg .stepLo
  | 0x024 => .arg .stepHi
  | _ =>
    if off < 0x10000 then .reserved
    else if off < 0x10000 + 4 * wmemWords then .wmem ((off - 0x10000) / 4)
    else .unmapped

end Sys2Proof.Machine
end

