-- ==== Sys2Proof/Machine/State.lean ====
section
/-! DEFINITION. The architectural state of 10_state.md R20 as plain data, the reasons a step can stop, and the state
after power-on reset (R31). ROM is constant (R29) and scratch is unobservable (R28): neither is a field. -/

namespace Sys2Proof.Machine

/-- The six operand registers ARG0 … ARG5 (R22), or their values at acceptance (R30, R102). -/
structure Args where
  dst    : Word
  srcA   : Word
  srcB   : Word
  len    : Word
  stepLo : Word
  stepHi : Word
  deriving DecidableEq, Repr

/-- The stored bits of STATUS (R23). BUSY is not stored: it is 1 exactly while RUN = Busy (R23, R30; log 10). -/
structure Status where
  done : Bool
  ovr  : Bool
  haz  : Bool
  deriving DecidableEq, Repr

/-- The engine run state RUN (R30): `busy c a e` holds the accepted command word, the ARG values and the ERR value at
acceptance. -/
inductive Run where
  | idle
  | busy (c : Word) (a : Args) (e : Word)
  deriving DecidableEq, Repr

/-- WMEM as (word address, word) pairs for the words written since power-on. A word that is not listed has its
power-on contents, which the spec leaves open (R252, I6; logs 1 and 2). -/
abbrev Memory := List (Nat × Word)

/-- The state of a PJE (R20), and three fields of the model's own: `freeCount`, `inputs`, `response`. -/
structure State where
  cmd    : Word          -- CMD readback (R26)
  status : Status        -- STATUS (R23)
  err    : Word          -- ERR, the error slot (R24)
  param  : Word          -- PARAM, reads WMEM_WORDS (R25)
  arg    : Args          -- ARG0 … ARG5 (R22)
  run    : Run           -- RUN (R30)
  wmem   : Memory        -- WMEM (R27)
  freeCount : Nat        -- model's own: how many free values were used (log 4)
  inputs : List Input    -- model's own: what happens next, first first (log 6)
  response : Option Word -- model's own: what the last host transaction returned (log 7)
  deriving DecidableEq, Repr

/-- Reasons to stop with a fault. There is none: "Nothing in the spec is `stuck`" (93_implementation_defined.md), and
every error of a command is a code in ERR after which the machine goes on (R220). -/
inductive Fault where
  deriving DecidableEq, Repr

/-- Reasons for which the model has no meaning. -/
inductive Refusal where
  /-- A command whose meaning is not written. Raised by an arm of `exec` only; safe. No arm raises it. -/
  | notModelled (mnemonic : String)
  /-- A host transaction that is not 32 bits wide or not 4-byte aligned: "a model must refuse it as a host protocol
  violation" (R51, I4). Raised by `hostTransaction`; safe. -/
  | hostProtocolViolation
  deriving DecidableEq, Repr

/-- The machine after power-on reset (R31, R250, R252): CMD, STATUS, ERR and ARG0-ARG5 are 0, RUN is Idle, PARAM reads
WMEM_WORDS (log 3), no WMEM word is known (log 2); the model's own fields are empty (logs 4, 6, 7). -/
def State.reset : State where
  cmd := 0#32
  status := ⟨false, false, false⟩
  err := 0#32
  param := BitVec.ofNat 32 Config.wmemWords
  arg := ⟨0#32, 0#32, 0#32, 0#32, 0#32, 0#32⟩
  run := .idle
  wmem := []
  freeCount := 0
  inputs := []
  response := none

end Sys2Proof.Machine
end

