-- ==== Sys2Proof/Machine/Flags.lean ====
section
/-! DEFINITION. The STATUS register's bits (10_state.md R23, its only flags: no command sets an arithmetic condition
code) and the codes of the error slot ERR (60_exceptions.md R220, R221). -/

namespace Sys2Proof.Machine

/-- RUN = Busy (R30). -/
def Run.isBusy : Run → Bool
  | .idle => false
  | .busy _ _ _ => true

/-- The STATUS word (R23): BUSY bit 0, DONE bit 1, OVR bit 2, HAZ bit 3, bits 31:4 read as zero. -/
def statusWord (run : Run) (st : Status) : Word :=
  (BitVec.ofBool st.haz ++ BitVec.ofBool st.ovr ++ BitVec.ofBool st.done ++ BitVec.ofBool run.isBusy).setWidth 32

/-- A host write to STATUS: bit 2 of the value clears OVR, bit 3 clears HAZ, nothing else changes (R23). -/
def Status.writeOneToClear (st : Status) (v : Word) : Status :=
  { st with ovr := st.ovr && !v.getLsbD 2, haz := st.haz && !v.getLsbD 3 }

/-- `is_error(e) ≡ e < 0` on signed32(ERR) (R220). -/
def isError (e : Word) : Bool := decide (e.toInt < 0)

/-- `is_warning(e) ≡ e > 0` on signed32(ERR) (R220). -/
def isWarning (e : Word) : Bool := decide (0 < e.toInt)

/-- The named codes of ERR (R221). The first four are the source's and no command raises them (I15). -/
inductive ErrCode where
  | seedDefaulted
  | memory
  | memoryJump
  | undefinedBackend
  | stepTooLarge
  | illegalCommand
  | badLength
  | badAddress
  | overlap
  | badOperand
  deriving DecidableEq, Repr

/-- The value of a code (R221). -/
def ErrCode.value : ErrCode → Int
  | .seedDefaulted    => 1
  | .memory           => -1
  | .memoryJump       => -2
  | .undefinedBackend => -4
  | .stepTooLarge     => -3
  | .illegalCommand   => -16
  | .badLength        => -17
  | .badAddress       => -18
  | .overlap          => -19
  | .badOperand       => -20

/-- The ERR word of a code, `sext_32(code)` (R105, R221). -/
def ErrCode.toWord (c : ErrCode) : Word := BitVec.ofInt 32 c.value

end Sys2Proof.Machine
end

