-- ==== Sys2Proof/Machine/Ops.lean ====
section
/-! DEFINITION. The named operations over WMEM and the registers: one word and many words of WMEM, the issue, skip and
acceptance of a command (40_command_execution.md R100 to R102), and its completion (R104 to R107). The PJE has no traps:
the error completion `State.completeError` is the one "exception entry" (60_exceptions.md R225), and the "return" is a
host write of a non-negative value to ERR (R226), `State.writeErr`. -/

namespace Sys2Proof.Machine

/-- The word listed at address `a`, if any. -/
def Memory.lookup : Memory → Nat → Option Word
  | [], _ => none
  | (b, v) :: m, a => if a = b then some v else Memory.lookup m a

/-- Write one word, keeping the addresses strictly rising. -/
def Memory.set : Memory → Nat → Word → Memory
  | [], a, v => [(a, v)]
  | (b, w) :: m, a, v =>
    if a < b then (a, v) :: (b, w) :: m
    else if a = b then (a, v) :: m
    else (b, w) :: Memory.set m a v

/-- Write the words `ws` at `a`, `a + 1`, … (R12 `MemWrite`). -/
def Memory.writeList : Memory → Nat → List Word → Memory
  | m, _, [] => m
  | m, a, w :: ws => Memory.set (Memory.writeList m (a + 1) ws) a w

/-- The canonical form: addresses strictly rising. An unlisted word has no listed value, so no entry can equal what an
unlisted address holds (log 2). -/
abbrev Memory.wf (m : Memory) : Prop := m.Pairwise (fun x y => x.1 < y.1)

/-- WMEM_WORDS, as PARAM holds it (R8, R25). -/
def State.wmemWords (s : State) : Nat := s.param.toNat

/-- `W[a]` (R12). A word that nothing has written since power-on reads as its free power-on contents (R252; log 2). -/
def State.readWord (s : State) (a : Nat) : Word := (s.wmem.lookup a).getD (Config.powerOnWord a)

/-- `MemRead(a, n)` (R12). -/
def State.readWords (s : State) (a n : Nat) : List Word := (List.range n).map fun i => s.readWord (a + i)

/-- `MemWrite(a, n, ws)` (R12). -/
def State.writeWords (s : State) (a : Nat) (ws : List Word) : State := { s with wmem := s.wmem.writeList a ws }

/-- The values `Config.anyWord k`, …: `n` fresh free values from the counter `k` on (logs 4 and 5). -/
def freeWords (k n : Nat) : List Word := (List.range n).map fun i => Config.anyWord (k + i)

/-- Read one operand register (R22). -/
def Args.get (a : Args) : ArgReg → Word
  | .dst => a.dst
  | .srcA => a.srcA
  | .srcB => a.srcB
  | .len => a.len
  | .stepLo => a.stepLo
  | .stepHi => a.stepHi

/-- Write one operand register: all 32 bits are writable (R22). -/
def Args.set (a : Args) (r : ArgReg) (v : Word) : Args :=
  match r with
  | .dst => { a with dst := v }
  | .srcA => { a with srcA := v }
  | .srcB => { a with srcB := v }
  | .len => { a with len := v }
  | .stepLo => { a with stepLo := v }
  | .stepHi => { a with stepHi := v }

/-- STATUS.OVR ← 1 (R254). -/
def State.setOvr (s : State) : State := { s with status := { s.status with ovr := true } }

/-- STATUS.HAZ ← 1 (R255, R256). -/
def State.setHaz (s : State) : State := { s with status := { s.status with haz := true } }

/-- `Skip()` for the command word `v`: CMD reads it back, DONE ← 1, RUN stays (R100, R101, R26). -/
def State.skip (s : State) (v : Word) : State := { s with cmd := v, status := { s.status with done := true } }

/-- `Accept(v)`: RUN ← Busy with the operand values and ERR of this moment, DONE ← 0 (R100, R102). -/
def State.accept (s : State) (v : Word) : State :=
  { s with cmd := v, run := .busy v s.arg s.err, status := { s.status with done := false } }

/-- `HostWriteCMD(v)` (R100, R254). -/
def State.issue (s : State) (v : Word) : State :=
  if s.run.isBusy then s.setOvr else if isError s.err then s.skip v else s.accept v

/-- A host write to ERR: all 32 bits while Idle (R24); the way an error chain ends (R226). Ignored, with HAZ set, while
Busy (R255). -/
def State.writeErr (s : State) (v : Word) : State := if s.run.isBusy then s.setHaz else { s with err := v }

/-- A host write to an ARG register (R22, R255). -/
def State.writeArg (s : State) (r : ArgReg) (v : Word) : State :=
  if s.run.isBusy then s.setHaz else { s with arg := s.arg.set r v }

/-- A host write to the WMEM word `w` (R27, R256). -/
def State.writeWmem (s : State) (w : Nat) (v : Word) : State :=
  if s.run.isBusy then s.setHaz else { s with wmem := s.wmem.set w v }

/-- A host write to STATUS, in either RUN state (R23). -/
def State.writeStatus (s : State) (v : Word) : State := { s with status := s.status.writeOneToClear v }

/-- What the last host transaction returned. -/
def State.respond (s : State) (r : Option Word) : State := { s with response := r }

/-- A WMEM read while Busy: an unspecified value, and HAZ ← 1 (R256; log 4). WMEM does not change. -/
def State.readWmemBusy (s : State) : State :=
  { s.setHaz with response := some (Config.anyWord s.freeCount), freeCount := s.freeCount + 1 }

/-- Successful completion (R104, R106): the words go to the destination or in-place region (none for `Ok(empty)`), RUN ←
Idle, DONE ← 1; ERR and every other register stay. -/
def State.completeOk (s : State) (start : Nat) (ws : List Word) : State :=
  { s with wmem := s.wmem.writeList start ws, run := .idle, status := { s.status with done := true } }

/-- Error completion, `raise ERR(code)` (R104, R105, R225): ERR ← code, no WMEM word changes, RUN ← Idle, DONE ← 1. -/
def State.completeError (s : State) (c : ErrCode) : State :=
  { s with err := c.toWord, run := .idle, status := { s.status with done := true } }

/-- The operand values of the command being executed: the values at acceptance that RUN holds (R102, R113). In an idle
state no command runs; there the ARG registers stand for the values a command issued now would take (log 8). -/
def State.operands (s : State) : Args :=
  match s.run with
  | .busy _ a _ => a
  | .idle => s.arg

end Sys2Proof.Machine
end

