-- ==== Sys2Proof/Machine/Operands.lean ====
section
/-! DEFINITION. The operands of the commands: registers (30_encoding.md R71, R76 to R78), regions (R80), the values
that WMEM holds in them (00_scope.md R10, R11), and the checks of 40_command_execution.md R103 that need no WMEM. -/

namespace Sys2Proof.Machine

/-- DST as a word address (R78). -/
def Args.dstAddr (o : Args) : Nat := o.dst.toNat

/-- SRCA as a word address (R78). -/
def Args.aAddr (o : Args) : Nat := o.srcA.toNat

/-- SRCB as a word address (R78). -/
def Args.bAddr (o : Args) : Nat := o.srcB.toNat

/-- The length operand n (R77). -/
def Args.n (o : Args) : Nat := o.len.toNat

/-- The step s = ARG4 + 2³²·ARG5, unsigned (R76). -/
def Args.step (o : Args) : Nat := o.stepLo.toNat + 2 ^ 32 * o.stepHi.toNat

/-- A region [start, start + len) of WMEM word addresses (R13). -/
structure Region where
  start : Nat
  len   : Nat
  deriving DecidableEq, Repr

/-- `InRange` (R109), in mathematical integers. -/
def Region.inRange (wmemWords : Nat) (r : Region) : Bool := decide (r.start + r.len ≤ wmemWords)

/-- `Overlaps` (R110). -/
def Region.overlaps (x y : Region) : Bool := decide (x.start < y.start + y.len) && decide (y.start < x.start + x.len)

/-- The WMEM regions of a command (R80): its sources, and its destination or in-place region if it has one. -/
structure Footprint where
  sources : List Region
  dest    : Option Region
  deriving DecidableEq, Repr

/-- The table of R80. ROM regions are not WMEM regions and are not checked (R109). -/
def footprint (i : Instr) (o : Args) : Footprint :=
  match i with
  | .nop => ⟨[], none⟩
  | .clmul32 => ⟨[⟨o.aAddr, 1⟩, ⟨o.bAddr, 1⟩], some ⟨o.dstAddr, 2⟩⟩
  | .pmulGs | .pmulKa => ⟨[⟨o.aAddr, o.n⟩, ⟨o.bAddr, o.n⟩], some ⟨o.dstAddr, 2 * o.n⟩⟩
  | .pmuluGs | .pmuluKa => ⟨[⟨o.aAddr, 2 * o.n⟩, ⟨o.bAddr, o.n⟩], some ⟨o.dstAddr, 3 * o.n⟩⟩
  | .pmod => ⟨[⟨o.aAddr, 1248⟩], some ⟨o.dstAddr, 624⟩⟩
  | .jpoly => ⟨[], some ⟨o.dstAddr, 624⟩⟩
  | .mmulM1 | .mmulM2 => ⟨[⟨o.aAddr, 18⟩, ⟨o.bAddr, 18⟩], some ⟨o.dstAddr, 18⟩⟩
  | .mpowM1 | .mpowM2 => ⟨[], some ⟨o.dstAddr, 18⟩⟩
  | .mrgApply => ⟨[⟨o.aAddr, 18⟩, ⟨o.bAddr, 18⟩], some ⟨o.dstAddr, 12⟩⟩
  | .mrgJump => ⟨[], some ⟨o.dstAddr, 12⟩⟩
  | .mtApply => ⟨[⟨o.aAddr, 624⟩], some ⟨o.dstAddr, 625⟩⟩
  | .mtJump => ⟨[], some ⟨o.dstAddr, 625⟩⟩

/-- The commands with a length operand (R77). -/
def takesLength : Instr → Bool
  | .pmulGs | .pmulKa | .pmuluGs | .pmuluKa => true
  | .nop | .clmul32 | .pmod | .jpoly | .mmulM1 | .mmulM2 | .mpowM1 | .mpowM2 | .mrgApply | .mrgJump | .mtApply
  | .mtJump => false

/-- The commands with a step operand (R76). -/
def takesStep : Instr → Bool
  | .jpoly | .mpowM1 | .mpowM2 | .mrgJump | .mtJump => true
  | .nop | .clmul32 | .pmulGs | .pmulKa | .pmuluGs | .pmuluKa | .pmod | .mmulM1 | .mmulM2 | .mrgApply | .mtApply =>
    false

/-- Check 2 of R103 fails: the length is not in [1, 624] (R77). -/
def lengthFails (i : Instr) (o : Args) : Bool := takesLength i && !(decide (1 ≤ o.n) && decide (o.n ≤ maxLen))

/-- Check 3 of R103 fails: some region is not in range (R109). -/
def rangeFails (wmemWords : Nat) (i : Instr) (o : Args) : Bool :=
  ((footprint i o).sources ++ (footprint i o).dest.toList).any fun r => !r.inRange wmemWords

/-- Check 4 of R103 fails: the destination or in-place region overlaps a source (R110). -/
def overlapFails (i : Instr) (o : Args) : Bool :=
  (footprint i o).dest.toList.any fun d => (footprint i o).sources.any fun r => d.overlaps r

/-- Check 5 of R103 fails: the step is above 2⁶³ − 1 (R111). -/
def stepFails (i : Instr) (o : Args) : Bool := takesStep i && decide (stepLimit < o.step)

/-- Checks 2 to 5 of R103, in that order: the code of the first that fails (R115). -/
def firstError (wmemWords : Nat) (i : Instr) (o : Args) : Option ErrCode :=
  if lengthFails i o then some .badLength
  else if rangeFails wmemWords i o then some .badAddress
  else if overlapFails i o then some .overlap
  else if stepFails i o then some .stepTooLarge
  else none

/-- The completion of command `i` (R103, R115): the first failing check of 2 to 5 decides; otherwise `body` does, which
makes checks 6 and 7 where the command has them and computes the result. -/
def State.checked (s : State) (i : Instr) (body : Args → State) : State :=
  match firstError s.wmemWords i s.operands with
  | some c => s.completeError c
  | none => body s.operands

/-- The polynomial that a list of words holds, least significant word first: bit k is the coefficient of t^k (R10). -/
def polyOfWords : List Word → Nat
  | [] => 0
  | w :: ws => w.toNat + 2 ^ 32 * polyOfWords ws

/-- `words_n(p)` (R10): the `n`-word image of a polynomial or an integer. -/
def wordsOf (n p : Nat) : List Word := (List.range n).map fun i => BitVec.ofNat 32 (p >>> (32 * i))

/-- `poly(a, n)` (R10). -/
def State.poly (s : State) (a n : Nat) : Nat := polyOfWords (s.readWords a n)

/-- `u64(a)` (R11). -/
def State.u64 (s : State) (a : Nat) : Nat := (s.readWord a).toNat + 2 ^ 32 * (s.readWord (a + 1)).toNat

end Sys2Proof.Machine
end

