-- ==== Sys2Proof/Machine/Control.lean ====
section
/-! DEFINITION. NOP (40_command_execution.md R112). -/

namespace Sys2Proof.Machine

/-- NOP: `Execute(NOP, a, W) = Ok(empty)`; no check can fail (R112). -/
def execNop (s : State) : Host.Outcome State Fault Refusal :=
  .next (s.checked .nop fun _ => s.completeOk 0 [])

end Sys2Proof.Machine
end

