-- ==== Sys2Proof/Machine/Digits.lean ====
section
/-! DEFINITION. The base-8 decomposition that JPOLY and MPOW share ("exactly as for MRG32k3a", 42_phi_reduction.md
R146, 43_mrg32k3a_matrix.md R171), over any multiplication, and the ROM tables' entries by their formula (R142, R166). -/

namespace Sys2Proof.Machine

/-- Base-8 digit `i` of `s`: `(s >> (3·i)) & 7` (R146, R171). -/
def digit (s i : Nat) : Nat := (s >>> (3 * i)) &&& 7

/-- The eighth power by three squarings. -/
def pow8 {α : Type} (mul : α → α → α) (x : α) : α :=
  let x2 := mul x x
  let x4 := mul x2 x2
  mul x4 x4

/-- `[x, x^8, x^(8^2), …]`, `n` entries. -/
def octaves {α : Type} (mul : α → α → α) : α → Nat → List α
  | _, 0 => []
  | x, n + 1 => x :: octaves mul (pow8 mul x) n

/-- `x^(j+1)`. -/
def powSucc {α : Type} (mul : α → α → α) (x : α) : Nat → α
  | 0 => x
  | j + 1 => mul (powSucc mul x j) x

/-- The loop of R146 and R171: for i = 0 … 20, combine the running value with the table entry `(i, d − 1)` when the digit
d of `s` is not 0. -/
def digitLoop {α : Type} (combine : α → α → α) (table : Nat → Nat → α) (one : α) (s : Nat) : α :=
  (List.range digitCount).foldl (fun r i => if 0 < digit s i then combine r (table i (digit s i - 1)) else r) one

end Sys2Proof.Machine
end

