-- ==== Sys2Proof/Machine/Mrg.lean ====
section
/-! DEFINITION. The MRG32k3a modular matrix unit (43_mrg32k3a_matrix.md): matrices and states in WMEM, the modular
product, the ROM tables T₁ and T₂, and MMUL, MPOW, MRG_APPLY and MRG_JUMP. -/

namespace Sys2Proof.Machine

/-- A column or row of three integers. -/
structure Vec3 where
  e0 : Nat
  e1 : Nat
  e2 : Nat
  deriving DecidableEq, Repr

/-- A 3×3 matrix by rows (R164). -/
structure Mat3 where
  r0 : Vec3
  r1 : Vec3
  r2 : Vec3
  deriving DecidableEq, Repr

/-- An MRG32k3a state: (s₁₀, s₁₁, s₁₂) and (s₂₀, s₂₁, s₂₂) (R161, R163). -/
structure MrgState where
  c1 : Vec3
  c2 : Vec3
  deriving DecidableEq, Repr

/-- The two components of MRG32k3a, chosen by COMP (R75). -/
inductive Component where
  | one
  | two
  deriving DecidableEq, Repr

/-- The modulus of a component (R75). -/
def Component.modulus : Component → Nat
  | .one => mrgM1
  | .two => mrgM2

/-- The transition matrices A₁ and A₂ (R162). -/
def Component.transition : Component → Mat3
  | .one => ⟨⟨0, 1, 0⟩, ⟨0, 0, 1⟩, ⟨4294156359, 1403580, 0⟩⟩
  | .two => ⟨⟨0, 1, 0⟩, ⟨0, 0, 1⟩, ⟨4293573854, 0, 527612⟩⟩

/-- The identity matrix. -/
def Mat3.one : Mat3 := ⟨⟨1, 0, 0⟩, ⟨0, 1, 0⟩, ⟨0, 0, 1⟩⟩

/-- Column 0, 1 or 2 of a matrix. -/
def Mat3.col0 (m : Mat3) : Vec3 := ⟨m.r0.e0, m.r1.e0, m.r2.e0⟩
/-- Column 1. -/
def Mat3.col1 (m : Mat3) : Vec3 := ⟨m.r0.e1, m.r1.e1, m.r2.e1⟩
/-- Column 2. -/
def Mat3.col2 (m : Mat3) : Vec3 := ⟨m.r0.e2, m.r1.e2, m.r2.e2⟩

/-- `( Σ_{k=0..2} x[k] · y[k] ) mod m`, exact integers (R167). -/
def dotMod (m : Nat) (x y : Vec3) : Nat := (x.e0 * y.e0 + x.e1 * y.e1 + x.e2 * y.e2) % m

/-- One row of a product. -/
def rowMul (m : Nat) (x : Vec3) (Y : Mat3) : Vec3 := ⟨dotMod m x Y.col0, dotMod m x Y.col1, dotMod m x Y.col2⟩

/-- `MatMul_m(X, Y)` (R167). -/
def matMul (m : Nat) (X Y : Mat3) : Mat3 := ⟨rowMul m X.r0 Y, rowMul m X.r1 Y, rowMul m X.r2 Y⟩

/-- `MatVec_m(X, v)` (R167). -/
def matVec (m : Nat) (X : Mat3) (v : Vec3) : Vec3 := ⟨dotMod m X.r0 v, dotMod m X.r1 v, dotMod m X.r2 v⟩

/-- `MrgApply(σ, M1, M2)` (R169). -/
def mrgApply (σ : MrgState) (M1 M2 : Mat3) : MrgState := ⟨matVec mrgM1 M1 σ.c1, matVec mrgM2 M2 σ.c2⟩

/-- Every entry is below the modulus (R165). -/
def Vec3.below (m : Nat) (v : Vec3) : Bool := decide (v.e0 < m) && decide (v.e1 < m) && decide (v.e2 < m)

/-- Every entry of a matrix is legal for the modulus (R165). -/
def Mat3.legal (m : Nat) (X : Mat3) : Bool := X.r0.below m && X.r1.below m && X.r2.below m

/-- Every entry of a state is legal (R165). -/
def MrgState.legal (σ : MrgState) : Bool := σ.c1.below mrgM1 && σ.c2.below mrgM2

/-- Three consecutive 64-bit integers (R11). -/
def State.readVec (s : State) (x : Nat) : Vec3 := ⟨s.u64 x, s.u64 (x + 2), s.u64 (x + 4)⟩

/-- The matrix at `x`: entry (r, c) is u64(x + 2·(3r + c)) (R164). -/
def State.readMat (s : State) (x : Nat) : Mat3 := ⟨s.readVec x, s.readVec (x + 6), s.readVec (x + 12)⟩

/-- The MRG32k3a state at `x` (R163). -/
def State.readMrg (s : State) (x : Nat) : MrgState := ⟨s.readVec x, s.readVec (x + 6)⟩

/-- Three entries as they are written: low word, then a high word 0 (R164, R168, R170). -/
def Vec3.words (v : Vec3) : List Word :=
  [BitVec.ofNat 32 v.e0, 0#32, BitVec.ofNat 32 v.e1, 0#32, BitVec.ofNat 32 v.e2, 0#32]

/-- A matrix as 18 words (R164). -/
def Mat3.words (X : Mat3) : List Word := X.r0.words ++ X.r1.words ++ X.r2.words

/-- A state as 12 words (R163). -/
def MrgState.words (σ : MrgState) : List Word := σ.c1.words ++ σ.c2.words

/-- `Aₖ^(8^i) mod mₖ` for i = 0 … 20. -/
def romTOctaves (k : Component) : List Mat3 := octaves (matMul k.modulus) k.transition digitCount

/-- ROM tables T₁ and T₂: `Tₖ[i][j] = Aₖ^((j+1)·8^i) mod mₖ` (R166), i ∈ [0, 20], j ∈ [0, 6]. -/
def romT (k : Component) (i j : Nat) : Mat3 := powSucc (matMul k.modulus) ((romTOctaves k).getD i Mat3.one) j

/-- `MPOW_k(s)`: R of R171, `R <- MatMul_mk(Tk[i][d-1], R)` for each nonzero digit. -/
def mrgPow (k : Component) (s : Nat) : Mat3 := digitLoop (fun R T => matMul k.modulus T R) (romT k) Mat3.one s

/-- `MrgApply(σ, MPOW_1(s), MPOW_2(s))` (R172). -/
def mrgJump (σ : MrgState) (s : Nat) : MrgState := mrgApply σ (mrgPow .one s) (mrgPow .two s)

/-- The result of MMUL for a component (R168): all 18 entries are checked before anything is written. -/
def State.mmulResult (s : State) (k : Component) (o : Args) : State :=
  let X := s.readMat o.aAddr
  let Y := s.readMat o.bAddr
  if X.legal k.modulus && Y.legal k.modulus then s.completeOk o.dstAddr (matMul k.modulus X Y).words
  else s.completeError .badOperand

/-- The result of MPOW for a component (R171). Step 0 writes the identity (R111). -/
def State.mpowResult (s : State) (k : Component) (o : Args) : State :=
  s.completeOk o.dstAddr (mrgPow k o.step).words

/-- MMUL.M1 (R168): m = m₁. -/
def execMmulM1 (s : State) : Host.Outcome State Fault Refusal := .next (s.checked .mmulM1 (s.mmulResult .one))

/-- MMUL.M2 (R168): m = m₂. -/
def execMmulM2 (s : State) : Host.Outcome State Fault Refusal := .next (s.checked .mmulM2 (s.mmulResult .two))

/-- MPOW.M1 (R171): A₁^s mod m₁. -/
def execMpowM1 (s : State) : Host.Outcome State Fault Refusal := .next (s.checked .mpowM1 (s.mpowResult .one))

/-- MPOW.M2 (R171): A₂^s mod m₂. -/
def execMpowM2 (s : State) : Host.Outcome State Fault Refusal := .next (s.checked .mpowM2 (s.mpowResult .two))

/-- MRG_APPLY (R170): the state at dst, in place, by the matrices at a (M₁) and b (M₂). -/
def execMrgApply (s : State) : Host.Outcome State Fault Refusal :=
  .next (s.checked .mrgApply fun o =>
    let σ := s.readMrg o.dstAddr
    let M1 := s.readMat o.aAddr
    let M2 := s.readMat o.bAddr
    if σ.legal && M1.legal mrgM1 && M2.legal mrgM2 then s.completeOk o.dstAddr (mrgApply σ M1 M2).words
    else s.completeError .badOperand)

/-- MRG_JUMP (R172): step 0 completes with no read and no write (check 6 of R103). -/
def execMrgJump (s : State) : Host.Outcome State Fault Refusal :=
  .next (s.checked .mrgJump fun o =>
    if o.step = 0 then s.completeOk o.dstAddr []
    else
      let σ := s.readMrg o.dstAddr
      if σ.legal then s.completeOk o.dstAddr (mrgJump σ o.step).words
      else s.completeError .badOperand)

end Sys2Proof.Machine
end

