-- ==== Sys2Proof/Machine/Gf2.lean ====
section
/-! DEFINITION. The GF(2) polynomial multiplier (41_gf2_multiply.md): the carry-less product, the word multiply and the
three algorithms the spec states for it, and CLMUL32, PMUL and PMULU. A polynomial is the Nat whose bit k is the
coefficient of t^k (00_scope.md R10). -/

namespace Sys2Proof.Machine

/-- `acc ⊕ Σ_{i<n} q_i · t^i · p`. -/
def clmulAux (p q : Nat) : Nat → Nat → Nat
  | 0, acc => acc
  | n + 1, acc => clmulAux p q n (acc ^^^ (if q.testBit n then p <<< n else 0))

/-- `clmul(p, q)` = Σ_{i,j} p_i q_j t^(i+j) over GF(2) (R120). -/
def clmul (p q : Nat) : Nat := clmulAux p q (q.log2 + 1) 0

/-- `clmul32(a, b)`, the source's 32-iteration masked XOR loop (R121). -/
def clmul32 (a b : Word) : BitVec 64 :=
  (List.range 32).foldl
    (fun r i => r ^^^ ((a &&& (if b.getLsbD i then 0xFFFFFFFF#32 else 0#32)).setWidth 64 <<< i)) 0#64

/-- `r[31:0]` and `r[63:32]`. -/
def lowHigh (r : BitVec 64) : List Word := [r.extractLsb' 0 32, r.extractLsb' 32 32]

/-- Word-by-word XOR of two regions of one length. -/
def xorWords (x y : List Word) : List Word := List.zipWith (· ^^^ ·) x y

/-- `n` zero words. -/
def zeroWords (n : Nat) : List Word := List.replicate n 0#32

/-- `R[k] <- R[k] ⊕ v`. -/
def xorAt (R : List Word) (k : Nat) (v : Word) : List Word := R.modify k (· ^^^ v)

/-- The inner loop of `GS` for one word `x = A[i]`: accumulate x · B[j] at word i + j, for the words of B from j on. -/
def gradeSchoolRow (x : Word) (i : Nat) (R : List Word) : Nat → List Word → List Word
  | _, [] => R
  | j, y :: B =>
    let r := clmul32 x y
    gradeSchoolRow x i (xorAt (xorAt R (i + j) (r.extractLsb' 0 32)) (i + j + 1) (r.extractLsb' 32 32)) (j + 1) B

/-- The outer loop of `GS`, for the words of A from i on. -/
def gradeSchoolRows (B : List Word) (R : List Word) : Nat → List Word → List Word
  | _, [] => R
  | i, x :: A => gradeSchoolRows B (gradeSchoolRow x i R 0 B) (i + 1) A

/-- `GS(A, B)`, the grade-school algorithm (R124): the 2n-word product of two n-word operands. -/
def gradeSchool (A B : List Word) : List Word := gradeSchoolRows B (zeroWords (2 * A.length)) 0 A

/-- A region padded with zero words to `n` words. -/
def padWords (n : Nat) (x : List Word) : List Word := x ++ zeroWords (n - x.length)

/-- `KA(A, B)`, the Karatsuba recursion (R125), the low half the longer one when n is odd. The first argument bounds the
depth of the recursion: the length of the operands is enough. -/
def karatsubaAux : Nat → List Word → List Word → List Word
  | 0, _, _ => []
  | fuel + 1, A, B =>
    let n := A.length
    if n ≤ 1 then lowHigh (clmul32 (A.headD 0#32) (B.headD 0#32))
    else
      let n1 := (n + 1) / 2
      let A0 := A.take n1
      let A1 := padWords n1 (A.drop n1)
      let B0 := B.take n1
      let B1 := padWords n1 (B.drop n1)
      let P0 := karatsubaAux fuel A0 B0
      let P2 := karatsubaAux fuel A1 B1
      let P1 := karatsubaAux fuel (xorWords A0 A1) (xorWords B0 B1)
      let Mid := xorWords (xorWords P1 P0) P2
      let R := xorWords (xorWords (P0 ++ zeroWords (2 * n1)) (zeroWords n1 ++ Mid ++ zeroWords n1))
        (zeroWords (2 * n1) ++ P2)
      R.take (2 * n)

/-- `KA(A, B)` (R125): the 2n-word product of two n-word operands, 1 ≤ n. -/
def karatsuba (A B : List Word) : List Word := karatsubaAux A.length A B

/-- `MULU(A, B, MUL)` (R127): the 3n-word product of a 2n-word and an n-word operand by two balanced multiplies. -/
def unbalanced (mul : List Word → List Word → List Word) (A B : List Word) : List Word :=
  let n := B.length
  let Lo := mul (A.take n) B
  let Hi := mul (A.drop n) B
  xorWords (Lo ++ zeroWords n) (zeroWords n ++ Hi)

/-- CLMUL32 (R122): `r <- clmul32(W[a], W[b]); MemWrite(dst, 2, [r[31:0], r[63:32]])`. -/
def execClmul32 (s : State) : Host.Outcome State Fault Refusal :=
  .next (s.checked .clmul32 fun o =>
    s.completeOk o.dstAddr (lowHigh (clmul32 (s.readWord o.aAddr) (s.readWord o.bAddr))))

/-- The result of PMUL for both algorithms (R123): "the same for both". -/
def State.pmulResult (s : State) (o : Args) : State :=
  s.completeOk o.dstAddr (wordsOf (2 * o.n) (clmul (s.poly o.aAddr o.n) (s.poly o.bAddr o.n)))

/-- PMUL.GS (R123). The algorithm of R124 gives the same words, so ALG is not visible (R74; log 14). -/
def execPmulGs (s : State) : Host.Outcome State Fault Refusal := .next (s.checked .pmulGs s.pmulResult)

/-- PMUL.KA (R123). The algorithm of R125 gives the same words, so ALG is not visible (R74; log 14). -/
def execPmulKa (s : State) : Host.Outcome State Fault Refusal := .next (s.checked .pmulKa s.pmulResult)

/-- The result of PMULU for both algorithms (R126): "the same for both". -/
def State.pmuluResult (s : State) (o : Args) : State :=
  s.completeOk o.dstAddr (wordsOf (3 * o.n) (clmul (s.poly o.aAddr (2 * o.n)) (s.poly o.bAddr o.n)))

/-- PMULU.GS (R126). -/
def execPmuluGs (s : State) : Host.Outcome State Fault Refusal := .next (s.checked .pmuluGs s.pmuluResult)

/-- PMULU.KA (R126). -/
def execPmuluKa (s : State) : Host.Outcome State Fault Refusal := .next (s.checked .pmuluKa s.pmuluResult)

end Sys2Proof.Machine
end

