-- ==== Sys2Proof/Machine/Phi.lean ====
section
/-! DEFINITION. Reduction modulo φ and the jump polynomial (42_phi_reduction.md): φ, the exact remainder, the ROM table
P, PMOD and JPOLY. -/

namespace Sys2Proof.Machine

/-- PHI_POS, the 134 positions below 19937 of φ's nonzero coefficients (R141). -/
def phiPositions : List Nat :=
  [0, 1189, 1416, 1585, 1643, 1870, 2493, 2773, 3000, 3227, 3454, 3681, 3908, 4135, 4362, 4753, 5661, 6337, 6569,
   7129, 7477, 7525, 7583, 7752, 7979, 8206, 9505, 9901, 9969, 10128, 10693, 10761, 10920, 11089, 11147, 11157,
   11215, 11321, 11374, 11384, 11485, 11611, 11712, 11717, 11838, 11881, 11944, 11997, 12277, 12335, 12393, 12504,
   12509, 12620, 12673, 12731, 12736, 12789, 12905, 12958, 12963, 13137, 13185, 13190, 13243, 13301, 13412, 13528,
   13533, 13639, 13697, 13760, 13813, 13866, 14093, 14151, 14209, 14320, 14325, 14436, 14547, 14552, 14605, 14721,
   14774, 14779, 14953, 15001, 15006, 15059, 15117, 15228, 15344, 15349, 15455, 15513, 15576, 15629, 15682, 15909,
   15967, 16025, 16136, 16141, 16252, 16363, 16368, 16421, 16537, 16590, 16595, 16817, 16822, 16875, 16933, 17044,
   17160, 17271, 17329, 17445, 17498, 17725, 17783, 17841, 17952, 18068, 18179, 18237, 18406, 18633, 18691, 18860,
   19087, 19314]

/-- φ(t) = t^19937 + Σ_{p in PHI_POS} t^p (R140). -/
def phi : Nat := phiPositions.foldl (fun f p => f ^^^ (1 <<< p)) (1 <<< degK)

/-- Clear the coefficients `degK + n − 1`, …, `degK` from high to low, each by adding φ shifted under it. -/
def reduceFrom : Nat → Nat → Nat
  | 0, x => x
  | n + 1, x => reduceFrom n (if x.testBit (degK + n) then x ^^^ (phi <<< n) else x)

/-- `x mod φ` (R10): the remainder of degree below 19937. Any method with the same remainder is allowed (R143, I11). -/
def modPhi (x : Nat) : Nat := reduceFrom (x.log2 + 1 - degK) x

/-- The informative fold of R143, for a list of blocks (start, end) from high to low. -/
def foldBlocks (x : Nat) (blocks : List (Nat × Nat)) : Nat :=
  blocks.foldl
    (fun x b =>
      let seg := (x >>> b.1) % 2 ^ (b.2 - b.1 + 1)
      (phiPositions.foldl (fun y p => y ^^^ (seg <<< (p + b.1 - degK))) x) ^^^ (seg <<< b.1))
    x

/-- `clmul(g, h) mod φ` (R146). -/
def mulPhi (g h : Nat) : Nat := modPhi (clmul g h)

/-- `t^(8^i) mod φ` for i = 0 … 20. -/
def romPOctaves : List Nat := octaves mulPhi 2 digitCount

/-- ROM table P: `P[i][j] = t^((j+1)·8^i) mod φ` (R142), i ∈ [0, 20], j ∈ [0, 6]. -/
def romP (i j : Nat) : Nat := powSucc mulPhi (romPOctaves.getD i 0) j

/-- The jump polynomial `g = t^s mod φ` by base-8 decomposition of `s` (R146). -/
def jumpPoly (s : Nat) : Nat := digitLoop mulPhi romP 1 s

/-- PMOD (R144): `MemWrite(dst, 624, words_624(poly(a, 1248) mod φ))`. -/
def execPmod (s : State) : Host.Outcome State Fault Refusal :=
  .next (s.checked .pmod fun o => s.completeOk o.dstAddr (wordsOf polyWords (modPhi (s.poly o.aAddr 1248))))

/-- JPOLY (R146). Step 0 writes the polynomial 1 (R111). -/
def execJpoly (s : State) : Host.Outcome State Fault Refusal :=
  .next (s.checked .jpoly fun o => s.completeOk o.dstAddr (wordsOf polyWords (jumpPoly o.step)))

end Sys2Proof.Machine
end

