-- ==== Sys2Proof/Machine/Mt.lean ====
section
/-! DEFINITION. The MT19937 jump-ahead state reconstruction pipeline (44_mt19937_jump.md): the twist and the raw draw,
the five stages of MT_APPLY, and MT_APPLY and MT_JUMP. -/

namespace Sys2Proof.Machine

/-- The 624 words `mt[0 … 623]` (R191). -/
abbrev MtArray := Vector Word 624

/-- An MT19937 state: the array and the cursor (R191). -/
structure MtState where
  mt  : MtArray
  idx : Nat
  deriving DecidableEq, Repr

/-- `mt[k mod N]`. -/
def mtGet (mt : MtArray) (k : Nat) : Word := mt[k % 624]'(Nat.mod_lt k (by decide))

/-- `mt[k mod N] <- v`. -/
def mtSet (mt : MtArray) (k : Nat) (v : Word) : MtArray := mt.set (k % 624) v (Nat.mod_lt k (by decide))

/-- One pass of the loop of `Twist` (R192). -/
def twistStep (mt : MtArray) (k : Nat) : MtArray :=
  let y := (mtGet mt k &&& mtU) ||| (mtGet mt (k + 1) &&& mtL)
  mtSet mt k (mtGet mt (k + mtM) ^^^ (y >>> 1) ^^^ (if y.getLsbD 0 then mtA else 0#32))

/-- `Twist(mt)` for k = 0 … N − 1 in place (R192). -/
def twist (mt : MtArray) : MtArray := (List.range mtN).foldl twistStep mt

/-- `RawNext(mt, idx)`: the untempered output word and the next state (R193). -/
def rawNext (w : MtState) : Word × MtState :=
  let v : MtState := if w.idx = 624 then ⟨twist w.mt, 0⟩ else w
  (mtGet v.mt v.idx, ⟨v.mt, v.idx + 1⟩)

/-- `n` rounds of the loop of `Collect` in its shift-register form, `pm <- (pm << 1) | b` (R197). -/
def collectLoop : Nat → Nat → MtState → Nat × MtState
  | 0, pm, w => (pm, w)
  | n + 1, pm, w =>
    match rawNext w with
    | (y, w') => collectLoop n ((pm <<< 1) ||| (y.getLsbD 0).toNat) w'

/-- Stage 1, `Collect(mt, idx)`: 2K raw draws on a private copy, the first low bit at t^(2K−1) (R197). -/
def collect (w : MtState) : Nat × MtState := collectLoop (2 * degK) 0 w

/-- Stage 3, `Extract(ph)`: `q[c]` = coefficient 2K − 1 − c of ph, c ∈ [0, K] (R199). -/
def extract (ph c : Nat) : Bool := ph.testBit (2 * degK - 1 - c)

/-- `y1` of the walk at index `i`, with the bit `q[i − N + 1]` (R200). -/
def walkWord (bit : Bool) (mt : MtArray) (i : Nat) : Word :=
  let x := mtGet mt i ^^^ mtGet mt (i + mtM)
  if bit then ((x ^^^ mtA) <<< 1) ||| 1#32 else x <<< 1

/-- The last `n` rounds of the loop of `Walk`, i = n + N − 2 down to N − 1 (R200). -/
def walkLoop (q : Nat → Bool) : Nat → MtArray → Word → MtArray
  | 0, mt, _ => mt
  | n + 1, mt, y0 =>
    let y1 := walkWord (q n) mt (n + 623)
    walkLoop q n (mtSet mt (n + 624) ((y0 &&& mtU) ||| (y1 &&& mtL))) y1

/-- Stage 4, `Walk(q, mt)`: i from K + N − 1 down to N − 1, with y0 = 0 at first (R200). -/
def walk (q : Nat → Bool) (mt : MtArray) : MtArray := walkLoop q (degK + 1) mt 0#32

/-- The array `mt'` of MT_APPLY for a polynomial `g` and a state (R196): stages 1 to 4. -/
def mtReconstruct (g : Nat) (w : MtState) : MtArray :=
  match collect w with
  | (pm, w') => walk (extract (clmul g pm)) w'.mt

/-- The MT19937 state at `x` (R191). -/
def State.readMt (s : State) (x : Nat) : MtState :=
  ⟨Vector.ofFn fun i : Fin 624 => s.readWord (x + i), (s.readWord (x + 624)).toNat⟩

/-- The 625 words `mt' ++ [0]` of stage 5 (R201). -/
def mtWords (mt : MtArray) : List Word := mt.toList ++ [0#32]

/-- MT_APPLY of `g` to the state at dst (R196): the cursor check first (R195), then the pipeline. -/
def State.mtApplyResult (s : State) (o : Args) (g : Nat) : State :=
  let w := s.readMt o.dstAddr
  if 624 < w.idx then s.completeError .badOperand
  else s.completeOk o.dstAddr (mtWords (mtReconstruct g w))

/-- MT_APPLY (R196): any 624-word `g`. -/
def execMtApply (s : State) : Host.Outcome State Fault Refusal :=
  .next (s.checked .mtApply fun o => s.mtApplyResult o (s.poly o.aAddr polyWords))

/-- MT_JUMP (R202): step 0 completes with no read and no write (check 6 of R103); otherwise MT_APPLY of the JPOLY result,
which stays in scratch. -/
def execMtJump (s : State) : Host.Outcome State Fault Refusal :=
  .next (s.checked .mtJump fun o =>
    if o.step = 0 then s.completeOk o.dstAddr [] else s.mtApplyResult o (jumpPoly o.step))

end Sys2Proof.Machine
end

