-- ==== Sys2Proof/Machine/Dispatch.lean ====
section
/-! DEFINITION. One meaning per command: the completion step of the command (40_command_execution.md R104, R115). -/

namespace Sys2Proof.Machine

def exec (i : Instr) (s : State) : Host.Outcome State Fault Refusal :=
  match i with
  | .nop => Sys2Proof.Machine.execNop s
  | .clmul32 => Sys2Proof.Machine.execClmul32 s
  | .pmulGs => Sys2Proof.Machine.execPmulGs s
  | .pmulKa => Sys2Proof.Machine.execPmulKa s
  | .pmuluGs => Sys2Proof.Machine.execPmuluGs s
  | .pmuluKa => Sys2Proof.Machine.execPmuluKa s
  | .pmod => Sys2Proof.Machine.execPmod s
  | .jpoly => Sys2Proof.Machine.execJpoly s
  | .mmulM1 => Sys2Proof.Machine.execMmulM1 s
  | .mmulM2 => Sys2Proof.Machine.execMmulM2 s
  | .mpowM1 => Sys2Proof.Machine.execMpowM1 s
  | .mpowM2 => Sys2Proof.Machine.execMpowM2 s
  | .mrgApply => Sys2Proof.Machine.execMrgApply s
  | .mrgJump => Sys2Proof.Machine.execMrgJump s
  | .mtApply => Sys2Proof.Machine.execMtApply s
  | .mtJump => Sys2Proof.Machine.execMtJump s

end Sys2Proof.Machine
end

