-- ==== Sys2Proof/Machine/Engine.lean ====
section
/-! DEFINITION. The engine's turn: the completion step of the running command (40_command_execution.md R104). -/

namespace Sys2Proof.Machine

/-- `EngineComplete()`, enabled only when RUN = Busy (R104): the command that the accepted word selects, or
ILLEGAL_COMMAND when it selects none (check 1 of R103, R73). While Idle the engine does nothing (R237). -/
def engineTurn (s : State) : Host.Outcome State Fault Refusal :=
  match s.run with
  | .idle => .next s
  | .busy c _ _ =>
    match decode c with
    | .ok i => exec i s
    | .error _ => .next (s.completeError .illegalCommand)

/-- The state in which the engine has accepted the command word `w` and its completion step is next: RUN, CMD and DONE as
`Accept` leaves them (R102), and the engine's turn in front of any pending input (log 9). -/
def State.accepted (s : State) (w : Word) : State :=
  { s.accept w with inputs := match s.inputs with | [] => [] | i :: is => .engine :: i :: is }

end Sys2Proof.Machine
end

