-- ==== Sys2Proof/Machine/HostPort.lean ====
section
/-! DEFINITION. The host's transactions on the register window (10_state.md R22 to R27, R32, R33; 20_memory.md R51,
R55; 70_reset_and_hazards.md R254 to R256). -/

namespace Sys2Proof.Machine

/-- `RegWrite(off, v)` with `off` naming `t`. -/
def State.hostWrite (s : State) (t : Target) (v : Word) : State :=
  match t with
  | .cmd => s.issue v
  | .status => s.writeStatus v
  | .err => s.writeErr v
  | .param => s
  | .arg r => s.writeArg r v
  | .wmem w => s.writeWmem w v
  | .reserved => s
  | .unmapped => s

/-- `RegRead(off)` with `off` naming `t`: the value read is the response. Only a WMEM read while Busy has a side effect
(R55). -/
def State.hostRead (s : State) (t : Target) : State :=
  match t with
  | .cmd => s.respond (some s.cmd)
  | .status => s.respond (some (statusWord s.run s.status))
  | .err => s.respond (some s.err)
  | .param => s.respond (some s.param)
  | .arg r => s.respond (some (s.arg.get r))
  | .wmem w => if s.run.isBusy then s.readWmemBusy else s.respond (some (s.readWord w))
  | .reserved => s.respond (some 0#32)
  | .unmapped => s.respond (some 0#32)

/-- One host transaction. One that is not 32 bits wide and 4-byte aligned is refused (R51, I4; log 12). -/
def hostTransaction (t : Txn) (s : State) : Host.Outcome State Fault Refusal :=
  if t.wellFormed then
    match t.op with
    | .read => .next (s.hostRead (targetOf s.wmemWords t.off))
    | .write v => .next ((s.hostWrite (targetOf s.wmemWords t.off) v).respond none)
  else .refused .hostProtocolViolation

end Sys2Proof.Machine
end

