-- ==== Sys2Proof/Machine/Reset.lean ====
section
/-! DEFINITION. The hardware reset (70_reset_and_hazards.md R250 to R252). -/

namespace Sys2Proof.Machine

/-- The WMEM words that a reset leaves unspecified: those of the destination or in-place region of the running command,
as far as WMEM reaches; none while Idle, for an illegal command word, or for a command with no such region (R251, R252;
log 5). -/
def State.abandonedRegion (s : State) : Region :=
  match s.run with
  | .idle => ⟨0, 0⟩
  | .busy c a _ =>
    match decode c with
    | .error _ => ⟨0, 0⟩
    | .ok i =>
      match (footprint i a).dest with
      | none => ⟨0, 0⟩
      | some d => ⟨d.start, min d.len (s.wmemWords - d.start)⟩

/-- A reset (R250): CMD, STATUS, ERR and ARG0-ARG5 ← 0, RUN ← Idle; PARAM stays. Each word of the abandoned region becomes
a fresh free value, every other WMEM word keeps its value (R251, R252). -/
def State.hardReset (s : State) : State :=
  { s with
    cmd := 0#32
    status := ⟨false, false, false⟩
    err := 0#32
    arg := ⟨0#32, 0#32, 0#32, 0#32, 0#32, 0#32⟩
    run := .idle
    wmem := s.wmem.writeList s.abandonedRegion.start (freeWords s.freeCount s.abandonedRegion.len)
    freeCount := s.freeCount + s.abandonedRegion.len }

end Sys2Proof.Machine
end

