-- ==== Sys2Proof/Machine/Step.lean ====
section
/-! DEFINITION. One step: the next pending input takes effect, one at a time and in order (20_memory.md R58). -/

namespace Sys2Proof.Machine

/-- One step. With nothing pending the engine moves, so that every accepted command completes (R108; log 6). -/
def step (s : State) : Host.Outcome State Fault Refusal :=
  match s.inputs with
  | [] => engineTurn s
  | .engine :: rest => engineTurn { s with inputs := rest }
  | .reset :: rest => .next (State.hardReset { s with inputs := rest })
  | .host t :: rest => hostTransaction t { s with inputs := rest }

/-- `s` with the command word of `nbits` bits `w` accepted, so that the very next step completes it (log 9). -/
def State.withFetchWord (s : State) (nbits w : Nat) : State := s.accepted (BitVec.ofNat 32 (w % 2 ^ nbits))

end Sys2Proof.Machine
end

