-- ==== Sys2Proof/Machine/Reference.lean ====
section
/-! DEFINITION. The reference functions that no command computes: the MRG32k3a transition, output and seeding
(43_mrg32k3a_matrix.md R161, R175, R176) and the MT19937 seeding, tempering and output equivalence (44_mt19937_jump.md
R194, R205, R206). They say what "advance by s steps" means and build the scenarios' states. -/

namespace Sys2Proof.Machine

/-- `p1` of one step, with the add-compensation `add1 = m₁·|a₁₃|` (R160, R161). -/
def mrgP1 (v : Vec3) : Nat :=
  ((mrgA12 * v.e1 + mrgA13 * v.e0 + (mrgM1 : Int) * 810728) % (mrgM1 : Int)).toNat

/-- `p2` of one step, with `add2 = m₂·|a₂₃|` (R160, R161). -/
def mrgP2 (v : Vec3) : Nat :=
  ((mrgA21 * v.e2 + mrgA23 * v.e0 + (mrgM2 : Int) * 1370589) % (mrgM2 : Int)).toNat

/-- The next state of `MrgStep` (R161). -/
def mrgStep (σ : MrgState) : MrgState :=
  ⟨⟨σ.c1.e1, σ.c1.e2, mrgP1 σ.c1⟩, ⟨σ.c2.e1, σ.c2.e2, mrgP2 σ.c2⟩⟩

/-- `MrgOut(p1, p2)`: "(p₁ − p₂ + m₁) if p₁ ≤ p₂, else (p₁ − p₂)" (R175). -/
def mrgOut (p1 p2 : Nat) : Nat := if p1 ≤ p2 then p1 + mrgM1 - p2 else p1 - p2

/-- The output of `MrgStep` (R161, R175). -/
def mrgStepOut (σ : MrgState) : Nat := mrgOut (mrgP1 σ.c1) (mrgP2 σ.c2)

/-- `x ← 69069·x + 1 (mod 2³²)` (R176). -/
def mrgLcg (x : Nat) : Nat := (69069 * x + 1) % 2 ^ 32

/-- `MrgSeed(x)`: six LCG outputs, three reduced mod m₁ and three mod m₂ (R176). -/
def mrgSeed (x : Nat) : MrgState :=
  let x1 := mrgLcg x
  let x2 := mrgLcg x1
  let x3 := mrgLcg x2
  let x4 := mrgLcg x3
  let x5 := mrgLcg x4
  let x6 := mrgLcg x5
  ⟨⟨x1 % mrgM1, x2 % mrgM1, x3 % mrgM1⟩, ⟨x4 % mrgM2, x5 % mrgM2, x6 % mrgM2⟩⟩

/-- One round of the seeding: `mt[i] ← 1812433253 · (mt[i−1] ⊕ (mt[i−1] >> 30)) + i` (R205). -/
def mtSeedStep (mt : MtArray) (i : Nat) : MtArray :=
  let p := mtGet mt (i - 1)
  mtSet mt i (1812433253#32 * (p ^^^ (p >>> 30)) + BitVec.ofNat 32 i)

/-- `MtSeed(x)` (R205). -/
def mtSeed (x : Word) : MtState :=
  ⟨(List.range' 1 623).foldl mtSeedStep (mtSet (Vector.replicate 624 0#32) 0 x), 624⟩

/-- `Temper(y)` (R206). -/
def temper (y : Word) : Word :=
  let y := y ^^^ (y >>> 11)
  let y := y ^^^ ((y <<< 7) &&& 0x9D2C5680#32)
  let y := y ^^^ ((y <<< 15) &&& 0xEFC60000#32)
  y ^^^ (y >>> 18)

/-- The state after `n` raw draws: "Advancing a state by s steps" (R193). -/
def mtAdvance : Nat → MtState → MtState
  | 0, w => w
  | n + 1, w => mtAdvance n (rawNext w).2

/-- The `k`-th raw output, counted from 0. -/
def mtOutput (w : MtState) (k : Nat) : Word := (rawNext (mtAdvance k w)).1

/-- Two MT19937 states are output-equivalent (R194). -/
def outputEquivalent (w v : MtState) : Prop := ∀ k, mtOutput w k = mtOutput v k

end Sys2Proof.Machine
end

