-- ==== Sys2Proof/Safety.lean ====
section
/-! DEFINITION. What the claims mean by a sound state and by a run that obeys the host protocol. -/

namespace Sys2Proof.Machine

/-- What RUN promises while a command runs: RUN holds CMD, the ARG values and ERR of this moment, ERR is not negative and
DONE is 0 (10_state.md R23, R26, R30; 40_command_execution.md R102, R103; 70_reset_and_hazards.md R255). -/
def State.runConsistent (s : State) : Prop :=
  match s.run with
  | .idle => True
  | .busy c a e => c = s.cmd ∧ a = s.arg ∧ e = s.err ∧ isError s.err = false ∧ s.status.done = false

/-- The invariant of the machine: WMEM is in canonical form and lists only words that exist, WMEM_WORDS is legal
(00_scope.md R8), and RUN is consistent with the registers. -/
structure State.Inv (s : State) : Prop where
  wmemCanonical : Memory.wf s.wmem
  wmemExists : ∀ p ∈ s.wmem, p.1 < s.wmemWords
  sizeLegal : 4096 ≤ s.wmemWords ∧ s.wmemWords ≤ 65536
  runMatches : s.runConsistent

/-- Neither OVR nor HAZ is set: the host has kept the wait rule (70_reset_and_hazards.md R257). -/
def State.noMisuse (s : State) : Prop := s.status.ovr = false ∧ s.status.haz = false

/-- ERR is negative: the error chain is running and commands are skipped (60_exceptions.md R227). -/
def State.inErrorChain (s : State) : Prop := isError s.err = true

end Sys2Proof.Machine
end

