-- ==== Sys2Proof/Certificates/Slice0/Obligations.lean ====
section
/-! DEFINITION. The statements for the provers, from the numbered rules of spec/. The words they share come first. -/

open Sys2Proof Sys2Proof.Machine

namespace Sys2Proof.Statement

/-- Command `i` completes at `s` with success (R104, R106): the words `ws` stand from `start` on, every other WMEM word
reads as before, RUN is Idle, DONE is 1, and nothing else has changed. -/
def Completes (i : Instr) (s : State) (start : Nat) (ws : List Word) : Prop :=
  ∃ t : State, exec i s = .next t ∧
    t = { s with run := .idle, status := { s.status with done := true }, wmem := t.wmem } ∧
    (∀ k (h : k < ws.length), t.readWord (start + k) = ws[k]) ∧
    ∀ a, (a < start ∨ start + ws.length ≤ a) → t.readWord a = s.readWord a

/-- Command `i` completes at `s` with an error (R104, R105): ERR holds the code, RUN is Idle, DONE is 1, and nothing else
has changed; no WMEM word has. -/
def Raises (i : Instr) (s : State) (c : ErrCode) : Prop :=
  exec i s = .next { s with err := c.toWord, run := .idle, status := { s.status with done := true } }

/-- A region is in range (R109). -/
def Fits (s : State) (r : Region) : Prop := r.start + r.len ≤ s.wmemWords

/-- Two regions share no address (R110). -/
def Apart (d r : Region) : Prop := d.start + d.len ≤ r.start ∨ r.start + r.len ≤ d.start

/-- Checks 3 and 4 of R103 for a command with the given source regions and destination or in-place region (R80): a region
out of range raises BAD_ADDRESS, otherwise an overlap raises OVERLAP, otherwise `passes` holds. -/
def RegionRule (i : Instr) (s : State) (sources : List Region) (d : Region) (passes : Prop) : Prop :=
  ((∃ r ∈ d :: sources, ¬Fits s r) → Raises i s .badAddress) ∧
  ((∀ r ∈ d :: sources, Fits s r) → (∃ r ∈ sources, ¬Apart d r) → Raises i s .overlap) ∧
  ((∀ r ∈ d :: sources, Fits s r) → (∀ r ∈ sources, Apart d r) → passes)

/-- Check 5 of R103 (R111): a step above 2⁶³ − 1 raises STEP_TOO_LARGE, otherwise `passes` holds. -/
def StepRule (i : Instr) (s : State) (passes : Prop) : Prop :=
  (2 ^ 63 - 1 < s.operands.step → Raises i s .stepTooLarge) ∧ (s.operands.step ≤ 2 ^ 63 - 1 → passes)

/-- Check 7 of R103 (R114): an illegal operand value raises BAD_OPERAND, otherwise `passes` holds. -/
def OperandRule (i : Instr) (s : State) (legal passes : Prop) : Prop :=
  (¬legal → Raises i s .badOperand) ∧ (legal → passes)

/-- The byte offset of an operand register (R32). -/
def argOffset : ArgReg → Nat
  | .dst => 0x010
  | .srcA => 0x014
  | .srcB => 0x018
  | .len => 0x01C
  | .stepLo => 0x020
  | .stepHi => 0x024

/-- The codes that R222 marks for each command. -/
def markedCodes : Instr → List ErrCode
  | .nop => []
  | .clmul32 => [.badAddress, .overlap]
  | .pmulGs | .pmulKa | .pmuluGs | .pmuluKa => [.badLength, .badAddress, .overlap]
  | .pmod => [.badAddress, .overlap]
  | .jpoly => [.badAddress, .stepTooLarge]
  | .mmulM1 | .mmulM2 => [.badAddress, .overlap, .badOperand]
  | .mpowM1 | .mpowM2 => [.badAddress, .stepTooLarge]
  | .mrgApply => [.badAddress, .overlap, .badOperand]
  | .mrgJump => [.badAddress, .stepTooLarge, .badOperand]
  | .mtApply => [.badAddress, .overlap, .badOperand]
  | .mtJump => [.badAddress, .stepTooLarge, .badOperand]

/-- An address lies in a region. -/
def InRegion (r : Region) (a : Nat) : Prop := r.start ≤ a ∧ a < r.start + r.len

/-- The table of R72: each command word and its command. -/
def tableWords : List (Word × Instr) :=
  [(0x00000000#32, .nop), (0x00000001#32, .clmul32), (0x00000002#32, .pmulGs), (0x00000102#32, .pmulKa),
   (0x00000003#32, .pmuluGs), (0x00000103#32, .pmuluKa), (0x00000008#32, .pmod), (0x00000009#32, .jpoly),
   (0x00000010#32, .mmulM1), (0x00001010#32, .mmulM2), (0x00000011#32, .mpowM1), (0x00001011#32, .mpowM2),
   (0x00000012#32, .mrgApply), (0x00000013#32, .mrgJump), (0x00000018#32, .mtApply), (0x00000019#32, .mtJump)]

/-- `n` 64-bit entries as WMEM holds results: the low word, then a high word 0 (R163, R164). -/
def entryWords (n : Nat) (entry : Nat → Nat) : List Word :=
  (List.range n).flatMap fun e => [BitVec.ofNat 32 (entry e), 0#32]

/-- Aₖ^e mod mₖ by e multiplications (R162, R167). -/
def matPower (k : Component) : Nat → Mat3
  | 0 => Mat3.one
  | e + 1 => matMul k.modulus k.transition (matPower k e)

/-- The WMEM regions that a command reads: its sources, and its in-place region (R57, R80). -/
def readRegions (i : Instr) (o : Args) : List Region :=
  (footprint i o).sources ++
    match i with
    | .mrgApply | .mrgJump | .mtApply | .mtJump => (footprint i o).dest.toList
    | _ => []

/-- Blocks (start, end) from high to low that leave no gap between them, each at most 623 bits long, the last starting at
19937, that cover every bit of `x` from 19937 on (R143). -/
def BlocksCover : Nat → List (Nat × Nat) → Prop
  | x, [] => x < 2 ^ degK
  | x, (start, stop) :: blocks =>
    degK ≤ start ∧ start ≤ stop ∧ stop - start + 1 ≤ 623 ∧ x < 2 ^ (stop + 1) ∧
      ∀ y, y < 2 ^ start → BlocksCover y blocks

end Sys2Proof.Statement

open Sys2Proof.Statement

/-! ### Encoding -/

/-- A few words of the table of R72, written out, decode to their commands. -/
def Obligations.DecodeReadsTableWords : Prop :=
  decode 0x00000000#32 = .ok .nop ∧ decode 0x00000102#32 = .ok .pmulKa ∧ decode 0x00000009#32 = .ok .jpoly ∧
    decode 0x00001011#32 = .ok .mpowM2 ∧ decode 0x00000012#32 = .ok .mrgApply ∧ decode 0x00000019#32 = .ok .mtJump

/-- A word selects a command exactly when the table of R72 lists it for that command, and that word is what the encoder
writes; so decoding an encoded command gives it back. -/
def Obligations.DecodeIsExactMatch : Prop :=
  ∀ (w : Word) (i : Instr), (decode w = .ok i ↔ (w, i) ∈ tableWords) ∧ (decode w = .ok i ↔ w = encode i)

/-- A word whose fields pass the checks of R73 is a word of the table, and conversely; and where the decoder rejects, the
check that it names fails. -/
def Obligations.LegalFieldsAreTableWords : Prop :=
  (∀ w : Word, (fieldsOfWord w).wellFormed = true ↔ ∃ i, w = encode i) ∧
  ∀ (w : Word) (r : DecodeReject), decode w = .error r →
    match r with
    | .unknownOp => (fieldsOfWord w).opKnown = false
    | .unknownAlg => (fieldsOfWord w).algKnown = false
    | .algNotAllowed => (fieldsOfWord w).algAllowed = false
    | .compNotAllowed => (fieldsOfWord w).compAllowed = false
    | .reservedBitSet => (fieldsOfWord w).reservedClear = false

/-! ### The engine's turn -/

/-- A word that is no word of R72 completes with ILLEGAL_COMMAND (R73). -/
def Obligations.IllegalWordRaisesIllegalCommand : Prop :=
  ∀ (s : State) (c : Word) (a : Args) (e : Word) (rest : List Input), s.run = .busy c a e → (∀ i, c ≠ encode i) →
    (s.inputs = .engine :: rest ∨ (s.inputs = [] ∧ rest = [])) →
    step s = .next { s with inputs := rest, err := 0xFFFFFFF0#32, run := .idle,
                            status := { s.status with done := true } }

/-- The engine's turn runs the command that the accepted word decodes to, on the state with that turn taken from the
pending inputs, or on the state itself when nothing is pending. -/
def Obligations.EngineTurnRunsDecodedCommand : Prop :=
  ∀ (s : State) (c : Word) (a : Args) (e : Word) (i : Instr), s.run = .busy c a e → decode c = .ok i →
    i.wellFormed = true →
    (∀ rest, s.inputs = .engine :: rest → step s = exec i { s with inputs := rest }) ∧
    (s.inputs = [] → step s = exec i s)

/-- Every accepted command, legal or not, completes at the engine's turn: BUSY = 0 and DONE = 1 after it, and OVR, HAZ, CMD
and ARG are as before (R104, R107, R108). -/
def Obligations.AcceptedCommandCompletes : Prop :=
  ∀ (s : State) (c : Word) (a : Args) (e : Word), s.run = .busy c a e →
    (s.inputs = [] ∨ ∃ rest, s.inputs = .engine :: rest) →
    ∃ t, step s = .next t ∧ t.run = .idle ∧ t.status = { s.status with done := true } ∧ t.cmd = s.cmd ∧ t.arg = s.arg

/-- A command that raises an error has changed no WMEM word and no register but ERR and STATUS (R224), and the code is one
of those marked for it in the table of 60_exceptions.md (R222, which the spec marks as derived); otherwise it leaves ERR,
every other register, and every WMEM word outside its destination or in-place region (R57, R106). -/
def Obligations.CommandRaisesMarkedCodeOrWritesItsRegion : Prop :=
  ∀ (i : Instr) (s : State), ∃ t, exec i s = .next t ∧
    ((∃ c ∈ markedCodes i,
        t = { s with err := c.toWord, run := .idle, status := { s.status with done := true } }) ∨
      (t = { s with run := .idle, status := { s.status with done := true }, wmem := t.wmem } ∧
        ∀ a, (∀ d ∈ (footprint i s.operands).dest, ¬InRegion d a) → t.readWord a = s.readWord a))

/-- The outcome is a function of the operand values and of the WMEM words in the command's source and in-place regions: two
states that agree on those get the same code, or the same words at the same place, whatever ERR, the other registers and the other words
are (R113). -/
def Obligations.OutcomeDependsOnlyOnOperands : Prop :=
  ∀ (i : Instr) (s u : State), s.operands = u.operands → s.param = u.param →
    (∀ r ∈ readRegions i s.operands, ∀ a, InRegion r a → s.readWord a = u.readWord a) →
    (∃ c : ErrCode, exec i s = .next (s.completeError c) ∧ exec i u = .next (u.completeError c)) ∨
    (∃ (start : Nat) (ws : List Word),
      exec i s = .next (s.completeOk start ws) ∧ exec i u = .next (u.completeOk start ws))

/-! ### The host's transactions -/

/-- A host transaction that is not 32 bits wide and 4-byte aligned is refused (R51), no step refuses anything else, and no
step faults. -/
def Obligations.MalformedTransactionsAreTheOnlyRefusals : Prop :=
  (∀ (s : State) (r : Refusal), step s = .refused r ↔
    r = .hostProtocolViolation ∧
      ∃ t rest, s.inputs = .host t :: rest ∧ ¬(t.width = .w32 ∧ t.off % 4 = 0)) ∧
  ∀ (s : State) (f : Fault), step s ≠ .fault f

/-- A write to CMD while Busy sets OVR and does nothing else, and a read of CMD while Busy returns the running command's
word (R254). -/
def Obligations.CommandWriteWhileBusySetsOverrun : Prop :=
  ∀ (s : State) (c : Word) (a : Args) (e : Word) (rest : List Input), s.run = .busy c a e →
    (∀ v, s.inputs = .host (regWrite 0x000 v) :: rest →
      step s = .next { s with inputs := rest, response := none, status := { s.status with ovr := true } }) ∧
    (s.Inv → s.inputs = .host (regRead 0x000) :: rest →
      step s = .next { s with inputs := rest, response := some c })

/-- A command issued while Idle with ERR negative is skipped: CMD reads it back and DONE is 1, nothing else (R101). -/
def Obligations.NegativeErrSkipsTheCommand : Prop :=
  ∀ (s : State) (v : Word) (rest : List Input), s.run = .idle → s.err.toInt < 0 →
    s.inputs = .host (regWrite 0x000 v) :: rest →
    step s = .next { s with inputs := rest, response := none, cmd := v, status := { s.status with done := true } }

/-- A command issued while Idle with ERR not negative is accepted: RUN holds the word, the ARG values and ERR; DONE is 0
(R102). A positive ERR does not short-circuit. -/
def Obligations.NonNegativeErrAcceptsTheCommand : Prop :=
  ∀ (s : State) (v : Word) (rest : List Input), s.run = .idle → 0 ≤ s.err.toInt →
    s.inputs = .host (regWrite 0x000 v) :: rest →
    step s = .next { s with inputs := rest, response := none, cmd := v, run := .busy v s.arg s.err,
                            status := { s.status with done := false } }

/-- While Busy a write to ARG0-ARG5 or ERR only sets HAZ; a read of them has no side effect and returns the value that the
running command uses (R255). -/
def Obligations.RegisterAccessWhileBusy : Prop :=
  ∀ (s : State) (c : Word) (a : Args) (e : Word) (rest : List Input), s.run = .busy c a e →
    (∀ v, s.inputs = .host (regWrite 0x008 v) :: rest ∨ (∃ r, s.inputs = .host (regWrite (argOffset r) v) :: rest) →
      step s = .next { s with inputs := rest, response := none, status := { s.status with haz := true } }) ∧
    (s.inputs = .host (regRead 0x008) :: rest →
      step s = .next { s with inputs := rest, response := some s.err }) ∧
    (∀ r, s.inputs = .host (regRead (argOffset r)) :: rest →
      step s = .next { s with inputs := rest, response := some (s.arg.get r) }) ∧
    (s.Inv → s.arg = a ∧ s.err = e)

/-- While Busy a write to any WMEM word only sets HAZ, and a read of any WMEM word sets HAZ and returns some value; WMEM
does not change (R256). -/
def Obligations.WmemAccessWhileBusy : Prop :=
  ∀ (s : State) (c : Word) (a : Args) (e : Word) (w : Nat) (rest : List Input), s.run = .busy c a e →
    w < s.wmemWords →
    (∀ v, s.inputs = .host (regWrite (0x10000 + 4 * w) v) :: rest →
      step s = .next { s with inputs := rest, response := none, status := { s.status with haz := true } }) ∧
    (s.inputs = .host (regRead (0x10000 + 4 * w)) :: rest →
      ∃ v, step s = .next { s with inputs := rest, response := some v, freeCount := s.freeCount + 1,
                                   status := { s.status with haz := true } })

/-- STATUS (R23), in either RUN state: what a read returns bit by bit, what a write clears, and that BUSY and DONE are never
1 together in a state that the invariant allows. -/
def Obligations.StatusRegisterBits : Prop :=
  ∀ (s : State) (rest : List Input),
    (s.inputs = .host (regRead 0x004) :: rest →
      ∃ v : Word, step s = .next { s with inputs := rest, response := some v } ∧
        (v.getLsbD 0 = true ↔ ∃ c a e, s.run = .busy c a e) ∧
        v.getLsbD 1 = s.status.done ∧ v.getLsbD 2 = s.status.ovr ∧ v.getLsbD 3 = s.status.haz ∧
        (∀ k, 4 ≤ k → v.getLsbD k = false) ∧
        (s.Inv → ¬(v.getLsbD 0 = true ∧ v.getLsbD 1 = true))) ∧
    (∀ v, s.inputs = .host (regWrite 0x004 v) :: rest →
      step s = .next { s with inputs := rest, response := none,
                              status := ⟨s.status.done, s.status.ovr && !v.getLsbD 2, s.status.haz && !v.getLsbD 3⟩ })

/-- Reserved and unmapped offsets read as zero and ignore writes in either RUN state, and set no flag (R33). -/
def Obligations.ReservedOffsetsReadZero : Prop :=
  ∀ (s : State) (off : Nat) (rest : List Input), off % 4 = 0 →
    ((0x028 ≤ off ∧ off ≤ 0xFFFC) ∨ 0x10000 + 4 * s.wmemWords ≤ off) →
    (s.inputs = .host (regRead off) :: rest → step s = .next { s with inputs := rest, response := some 0#32 }) ∧
    (∀ v, s.inputs = .host (regWrite off v) :: rest → step s = .next { s with inputs := rest, response := none })

/-- PARAM reads WMEM_WORDS, and a write to it is ignored with no flag, in either RUN state (R25). -/
def Obligations.ParamReadsWmemWords : Prop :=
  ∀ (s : State) (rest : List Input),
    (s.inputs = .host (regRead 0x00C) :: rest →
      step s = .next { s with inputs := rest, response := some (BitVec.ofNat 32 s.wmemWords) }) ∧
    (∀ v, s.inputs = .host (regWrite 0x00C v) :: rest → step s = .next { s with inputs := rest, response := none })

/-- While Idle, what the host writes to an ARG register, to ERR or to a WMEM word is what it reads there next, and a write
to a WMEM word changes no other word (R22, R24, R27). -/
def Obligations.IdleWritesReadBack : Prop :=
  ∀ (s : State) (v : Word) (rest : List Input), s.run = .idle →
    (∀ r, s.inputs = .host (regWrite (argOffset r) v) :: .host (regRead (argOffset r)) :: rest →
      Host.Core.run core 2 s = .next { s with inputs := rest, response := some v, arg := s.arg.set r v }) ∧
    (s.inputs = .host (regWrite 0x008 v) :: .host (regRead 0x008) :: rest →
      Host.Core.run core 2 s = .next { s with inputs := rest, response := some v, err := v }) ∧
    (∀ w, w < s.wmemWords →
      s.inputs = .host (regWrite (0x10000 + 4 * w) v) :: .host (regRead (0x10000 + 4 * w)) :: rest →
      ∃ t, Host.Core.run core 2 s = .next t ∧
        t = { s with inputs := rest, response := some v, wmem := t.wmem } ∧
        t.readWord w = v ∧ ∀ a, a ≠ w → t.readWord a = s.readWord a)

/-- A single read while Idle returns the value of the register or WMEM word and changes nothing else (R22, R24, R26, R27,
R55). What CMD reads is the last word issued while Idle, accepted or skipped, or 0 after a reset: an issue while Idle sets it,
and nothing else but a reset changes it (R26). -/
def Obligations.IdleReadsReturnTheValues : Prop :=
  (∀ (s : State) (rest : List Input), s.run = .idle →
    (s.inputs = .host (regRead 0x000) :: rest → step s = .next { s with inputs := rest, response := some s.cmd }) ∧
    (s.inputs = .host (regRead 0x008) :: rest → step s = .next { s with inputs := rest, response := some s.err }) ∧
    (∀ r, s.inputs = .host (regRead (argOffset r)) :: rest →
      step s = .next { s with inputs := rest, response := some (s.arg.get r) }) ∧
    (∀ w, w < s.wmemWords → s.inputs = .host (regRead (0x10000 + 4 * w)) :: rest →
      step s = .next { s with inputs := rest, response := some (s.readWord w) }) ∧
    (∀ v, s.inputs = .host (regWrite 0x000 v) :: rest → ∃ t, step s = .next t ∧ t.cmd = v)) ∧
  ∀ s t : State, step s = .next t → t.cmd ≠ s.cmd →
    (s.run = .idle ∧ ∃ v rest, s.inputs = .host (regWrite 0x000 v) :: rest ∧ t.cmd = v) ∨
    ((∃ rest, s.inputs = .reset :: rest) ∧ t.cmd = 0#32)

/-! ### Reset -/

/-- A reset sets CMD, STATUS, ERR and ARG0-ARG5 to 0 and RUN to Idle, and leaves PARAM (R250). -/
def Obligations.ResetSetsTheRegisters : Prop :=
  ∀ (s : State) (rest : List Input), s.inputs = .reset :: rest →
    ∃ t, step s = .next t ∧ t.cmd = 0#32 ∧ t.status = ⟨false, false, false⟩ ∧ t.err = 0#32 ∧
      (∀ r, t.arg.get r = 0#32) ∧ t.run = .idle ∧ t.param = s.param

/-- A reset while Idle leaves every WMEM word unchanged (R252); a reset while Busy leaves every WMEM word unchanged outside
the destination or in-place region of the running command (R251); NOP has none (R80). That a running word that
is no command has none either, so that every word stays, is the model's reading of R251 (log 5). -/
def Obligations.ResetLosesOnlyTheRunningRegion : Prop :=
  ∀ (s t : State) (rest : List Input), s.inputs = .reset :: rest → step s = .next t → ∀ x,
    (s.run = .idle → t.readWord x = s.readWord x) ∧
    (∀ c a e, s.run = .busy c a e →
      (∀ i d, decode c = .ok i → (footprint i a).dest = some d → ¬InRegion d x) → t.readWord x = s.readWord x)

/-! ### Invariants and what changes what -/

/-- The invariant holds after power-on reset, for the model's choice of WMEM_WORDS (log 3). -/
def Obligations.InvariantHoldsAtReset : Prop := State.reset.Inv

/-- Every step keeps the invariant: the canonical form of WMEM, the words that exist, the legal size, and what RUN promises
about CMD, ARG, ERR and DONE while a command runs. -/
def Obligations.EveryStepKeepsTheInvariant : Prop := ∀ s t : State, s.Inv → step s = .next t → t.Inv

/-- RUN changes only at acceptance (Idle to Busy), at completion (Busy to Idle) and at reset (to Idle) (R30). -/
def Obligations.RunChangesOnlyAsStated : Prop :=
  ∀ s t : State, step s = .next t → t.run ≠ s.run →
    (∃ v rest, s.run = .idle ∧ s.inputs = .host (regWrite 0x000 v) :: rest ∧ 0 ≤ s.err.toInt ∧
      t.run = .busy v s.arg s.err) ∨
    ((∃ c a e, s.run = .busy c a e) ∧ (s.inputs = [] ∨ ∃ rest, s.inputs = .engine :: rest) ∧ t.run = .idle ∧
      t.status.done = true) ∨
    ((∃ rest, s.inputs = .reset :: rest) ∧ t.run = .idle)

/-- The engine never writes ARG0-ARG5 and nothing writes PARAM: ARG changes only by a host write while Idle or a reset
(R22, R25); ERR changes only by a host write while Idle, a completion or a reset (R24). -/
def Obligations.ArgErrAndParamChangeOnlyAsStated : Prop :=
  ∀ s t : State, step s = .next t →
    t.param = s.param ∧
    (t.arg ≠ s.arg → (s.run = .idle ∧ ∃ r v rest, s.inputs = .host (regWrite (argOffset r) v) :: rest) ∨
      ∃ rest, s.inputs = .reset :: rest) ∧
    (t.err ≠ s.err → (s.run = .idle ∧ ∃ v rest, s.inputs = .host (regWrite 0x008 v) :: rest) ∨
      ((∃ c a e, s.run = .busy c a e) ∧ (s.inputs = [] ∨ ∃ rest, s.inputs = .engine :: rest)) ∨
      ∃ rest, s.inputs = .reset :: rest)

/-- OVR is newly set only by a CMD write while Busy, and HAZ only by an ERR, ARG or WMEM write or a WMEM read while Busy: a
host that keeps the wait rule never sets them (R257, which the spec marks as derived). -/
def Obligations.OvrAndHazOnlyByMisuse : Prop :=
  ∀ s t : State, step s = .next t →
    (t.status.ovr = true → s.status.ovr = true ∨
      ((∃ c a e, s.run = .busy c a e) ∧ ∃ v rest, s.inputs = .host (regWrite 0x000 v) :: rest)) ∧
    (t.status.haz = true → s.status.haz = true ∨
      ((∃ c a e, s.run = .busy c a e) ∧
        ((∃ v rest, s.inputs = .host (regWrite 0x008 v) :: rest) ∨
          (∃ r v rest, s.inputs = .host (regWrite (argOffset r) v) :: rest) ∨
          ∃ w < s.wmemWords, (∃ v rest, s.inputs = .host (regWrite (0x10000 + 4 * w) v) :: rest) ∨
            ∃ rest, s.inputs = .host (regRead (0x10000 + 4 * w)) :: rest)))

/-- A WMEM word changes only by a host write to it while Idle, or in the destination or in-place region of the running
command when that command completes or is abandoned by a reset (R27, R57, R251). That a reset while a word that is no command
runs changes no WMEM word is the model's reading of R251 (log 5). -/
def Obligations.WmemChangesOnlyAsStated : Prop :=
  ∀ (s t : State) (x : Nat), step s = .next t → t.readWord x ≠ s.readWord x →
    (s.run = .idle ∧ x < s.wmemWords ∧ ∃ v rest, s.inputs = .host (regWrite (0x10000 + 4 * x) v) :: rest) ∨
    (∃ c a e i d, s.run = .busy c a e ∧ decode c = .ok i ∧ (footprint i a).dest = some d ∧ InRegion d x ∧
      (s.inputs = [] ∨ (∃ rest, s.inputs = .engine :: rest) ∨ ∃ rest, s.inputs = .reset :: rest))

/-- While Idle with ERR negative, however many commands the host issues, nothing changes but CMD, DONE, the pending inputs and
the response: ERR, WMEM, ARG, RUN, OVR, HAZ and PARAM stay as they are (R101, and R227, which the spec marks as derived). -/
def Obligations.ErrorChainLeavesStateAlone : Prop :=
  ∀ (k : Nat) (s t : State), s.run = .idle → s.err.toInt < 0 →
    (∀ x ∈ s.inputs, x = .engine ∨ ∃ v, x = .host (regWrite 0x000 v)) → Host.Core.run core k s = .next t →
    t = { s with cmd := t.cmd, status := { s.status with done := t.status.done }, inputs := t.inputs,
                 response := t.response }

/-! ### The commands -/

/-- NOP: word 0, no check can fail, nothing is written (R112). -/
def Obligations.NopMeaning : Prop := decode 0x00000000#32 = .ok .nop ∧ ∀ s : State, Completes .nop s 0 []

/-- CLMUL32 (R122). -/
def Obligations.Clmul32Meaning : Prop :=
  decode 0x00000001#32 = .ok .clmul32 ∧ ∀ s : State,
    RegionRule .clmul32 s [⟨s.operands.srcA.toNat, 1⟩, ⟨s.operands.srcB.toNat, 1⟩] ⟨s.operands.dst.toNat, 2⟩
      (Completes .clmul32 s s.operands.dst.toNat
        [(clmul32 (s.readWord s.operands.srcA.toNat) (s.readWord s.operands.srcB.toNat)).extractLsb' 0 32,
         (clmul32 (s.readWord s.operands.srcA.toNat) (s.readWord s.operands.srcB.toNat)).extractLsb' 32 32])

/-- PMUL.GS and PMUL.KA (R123): one meaning for both algorithms. -/
def Obligations.PmulMeaning : Prop :=
  decode 0x00000002#32 = .ok .pmulGs ∧ decode 0x00000102#32 = .ok .pmulKa ∧
  ∀ i ∈ [Instr.pmulGs, Instr.pmulKa], ∀ (s : State) (n : Nat), n = s.operands.len.toNat →
    ((n = 0 ∨ 624 < n) → Raises i s .badLength) ∧
    (1 ≤ n → n ≤ 624 →
      RegionRule i s [⟨s.operands.srcA.toNat, n⟩, ⟨s.operands.srcB.toNat, n⟩] ⟨s.operands.dst.toNat, 2 * n⟩
        (Completes i s s.operands.dst.toNat
          (wordsOf (2 * n) (clmul (s.poly s.operands.srcA.toNat n) (s.poly s.operands.srcB.toNat n)))))

/-- PMULU.GS and PMULU.KA (R126): one meaning for both algorithms. -/
def Obligations.PmuluMeaning : Prop :=
  decode 0x00000003#32 = .ok .pmuluGs ∧ decode 0x00000103#32 = .ok .pmuluKa ∧
  ∀ i ∈ [Instr.pmuluGs, Instr.pmuluKa], ∀ (s : State) (n : Nat), n = s.operands.len.toNat →
    ((n = 0 ∨ 624 < n) → Raises i s .badLength) ∧
    (1 ≤ n → n ≤ 624 →
      RegionRule i s [⟨s.operands.srcA.toNat, 2 * n⟩, ⟨s.operands.srcB.toNat, n⟩] ⟨s.operands.dst.toNat, 3 * n⟩
        (Completes i s s.operands.dst.toNat
          (wordsOf (3 * n) (clmul (s.poly s.operands.srcA.toNat (2 * n)) (s.poly s.operands.srcB.toNat n)))))

/-- PMOD (R144). -/
def Obligations.PmodMeaning : Prop :=
  decode 0x00000008#32 = .ok .pmod ∧ ∀ s : State,
    RegionRule .pmod s [⟨s.operands.srcA.toNat, 1248⟩] ⟨s.operands.dst.toNat, 624⟩
      (Completes .pmod s s.operands.dst.toNat (wordsOf 624 (modPhi (s.poly s.operands.srcA.toNat 1248))))

/-- JPOLY (R146): the digit loop's polynomial, for step 0 the polynomial 1. -/
def Obligations.JpolyMeaning : Prop :=
  decode 0x00000009#32 = .ok .jpoly ∧ ∀ s : State,
    RegionRule .jpoly s [] ⟨s.operands.dst.toNat, 624⟩
      (StepRule .jpoly s (Completes .jpoly s s.operands.dst.toNat (wordsOf 624 (jumpPoly s.operands.step)) ∧
        (s.operands.step = 0 → jumpPoly s.operands.step = 1)))

/-- MMUL.M1 and MMUL.M2 (R168): entry (r, c) of the product is Σ_k X[r][k]·Y[k][c] mod m, with high word 0. -/
def Obligations.MmulMeaning : Prop :=
  decode 0x00000010#32 = .ok .mmulM1 ∧ decode 0x00001010#32 = .ok .mmulM2 ∧
  ∀ p ∈ [(Instr.mmulM1, 4294967087), (Instr.mmulM2, 4294944443)], ∀ (s : State) (a b : Nat),
    a = s.operands.srcA.toNat → b = s.operands.srcB.toNat →
    RegionRule p.1 s [⟨a, 18⟩, ⟨b, 18⟩] ⟨s.operands.dst.toNat, 18⟩
      (OperandRule p.1 s (∀ e < 9, s.u64 (a + 2 * e) < p.2 ∧ s.u64 (b + 2 * e) < p.2)
        (Completes p.1 s s.operands.dst.toNat
          (entryWords 9 fun e =>
            (s.u64 (a + 2 * (3 * (e / 3))) * s.u64 (b + 2 * (e % 3)) +
              s.u64 (a + 2 * (3 * (e / 3) + 1)) * s.u64 (b + 2 * (3 + e % 3)) +
              s.u64 (a + 2 * (3 * (e / 3) + 2)) * s.u64 (b + 2 * (6 + e % 3))) % p.2)))

/-- MPOW.M1 and MPOW.M2 (R171): the digit loop's matrix, for step 0 the identity. -/
def Obligations.MpowMeaning : Prop :=
  decode 0x00000011#32 = .ok .mpowM1 ∧ decode 0x00001011#32 = .ok .mpowM2 ∧
  ∀ p ∈ [(Instr.mpowM1, Component.one), (Instr.mpowM2, Component.two)], ∀ s : State,
    RegionRule p.1 s [] ⟨s.operands.dst.toNat, 18⟩
      (StepRule p.1 s (Completes p.1 s s.operands.dst.toNat (mrgPow p.2 s.operands.step).words ∧
        (s.operands.step = 0 → mrgPow p.2 s.operands.step = Mat3.one)))

/-- MRG_APPLY (R170): entry e of the new state is a row of M₁ times (s₁₀, s₁₁, s₁₂) mod m₁, or a row of M₂ times
(s₂₀, s₂₁, s₂₂) mod m₂, with high word 0. -/
def Obligations.MrgApplyMeaning : Prop :=
  decode 0x00000012#32 = .ok .mrgApply ∧
  ∀ (s : State) (d a b : Nat), d = s.operands.dst.toNat → a = s.operands.srcA.toNat → b = s.operands.srcB.toNat →
    RegionRule .mrgApply s [⟨a, 18⟩, ⟨b, 18⟩] ⟨d, 12⟩
      (OperandRule .mrgApply s
        ((∀ e < 3, s.u64 (d + 2 * e) < 4294967087 ∧ s.u64 (d + 2 * (3 + e)) < 4294944443) ∧
          ∀ e < 9, s.u64 (a + 2 * e) < 4294967087 ∧ s.u64 (b + 2 * e) < 4294944443)
        (Completes .mrgApply s d
          (entryWords 6 fun e =>
            if e < 3 then
              (s.u64 (a + 2 * (3 * e)) * s.u64 d + s.u64 (a + 2 * (3 * e + 1)) * s.u64 (d + 2) +
                s.u64 (a + 2 * (3 * e + 2)) * s.u64 (d + 4)) % 4294967087
            else
              (s.u64 (b + 2 * (3 * (e - 3))) * s.u64 (d + 6) + s.u64 (b + 2 * (3 * (e - 3) + 1)) * s.u64 (d + 8) +
                s.u64 (b + 2 * (3 * (e - 3) + 2)) * s.u64 (d + 10)) % 4294944443)))

/-- MRG_JUMP (R172): step 0 completes with no write, whatever the state holds. -/
def Obligations.MrgJumpMeaning : Prop :=
  decode 0x00000013#32 = .ok .mrgJump ∧ ∀ (s : State) (d : Nat), d = s.operands.dst.toNat →
    RegionRule .mrgJump s [] ⟨d, 12⟩
      (StepRule .mrgJump s
        ((s.operands.step = 0 → Completes .mrgJump s d []) ∧
          (s.operands.step ≠ 0 →
            OperandRule .mrgJump s
              (∀ e < 3, s.u64 (d + 2 * e) < 4294967087 ∧ s.u64 (d + 2 * (3 + e)) < 4294944443)
              (Completes .mrgJump s d
                (mrgApply (s.readMrg d) (mrgPow .one s.operands.step) (mrgPow .two s.operands.step)).words))))

/-- MT_APPLY (R196, R195): any 624-word polynomial; a cursor above 624 raises BAD_OPERAND. -/
def Obligations.MtApplyMeaning : Prop :=
  decode 0x00000018#32 = .ok .mtApply ∧
  ∀ (s : State) (d a : Nat), d = s.operands.dst.toNat → a = s.operands.srcA.toNat →
    RegionRule .mtApply s [⟨a, 624⟩] ⟨d, 625⟩
      (OperandRule .mtApply s ((s.readWord (d + 624)).toNat ≤ 624)
        (Completes .mtApply s d ((mtReconstruct (s.poly a 624) (s.readMt d)).toList ++ [0#32])))

/-- MT_JUMP (R202): step 0 completes with no write, whatever the state holds; otherwise MT_APPLY of the jump polynomial. -/
def Obligations.MtJumpMeaning : Prop :=
  decode 0x00000019#32 = .ok .mtJump ∧ ∀ (s : State) (d : Nat), d = s.operands.dst.toNat →
    RegionRule .mtJump s [] ⟨d, 625⟩
      (StepRule .mtJump s
        ((s.operands.step = 0 → Completes .mtJump s d []) ∧
          (s.operands.step ≠ 0 →
            OperandRule .mtJump s ((s.readWord (d + 624)).toNat ≤ 624)
              (Completes .mtJump s d
                ((mtReconstruct (jumpPoly s.operands.step) (s.readMt d)).toList ++ [0#32])))))

/-! ### GF(2) products -/

/-- Coefficient k of the carry-less product is Σ_{i ≤ k} p_i q_{k−i} over GF(2), and the product of two words is below 2⁶³:
bit 63 is 0 (R120). -/
def Obligations.ClmulCoefficients : Prop :=
  (∀ p q k : Nat, (clmul p q).testBit k =
    (List.range (k + 1)).foldl (fun b i => b ^^ (p.testBit i && q.testBit (k - i))) false) ∧
  ∀ a b : Word, clmul a.toNat b.toNat < 2 ^ 63

/-- The 32-iteration masked loop gives the carry-less product of two words; it is commutative, and 0 and 1 are its zero and
its one (R121's sentences that the spec marks as derived from R120). -/
def Obligations.Clmul32IsTheProduct : Prop :=
  ∀ a b : Word, (clmul32 a b).toNat = clmul a.toNat b.toNat ∧ clmul32 a b = clmul32 b a ∧
    clmul32 a 0#32 = 0#64 ∧ clmul32 a 1#32 = a.setWidth 64

/-- The grade-school loop gives the exact product of two n-word operands (R124: "It gives the exact P of rule R123", which
the spec marks as derived). -/
def Obligations.GradeSchoolComputesTheProduct : Prop :=
  ∀ A B : List Word, A.length = B.length →
    gradeSchool A B = wordsOf (2 * A.length) (clmul (polyOfWords A) (polyOfWords B))

/-- The Karatsuba recursion gives the exact product of two n-word operands, n odd or even (R125: "The result is the exact
product of rule R123", which the spec marks as derived). -/
def Obligations.KaratsubaComputesTheProduct : Prop :=
  ∀ A B : List Word, 1 ≤ A.length → A.length = B.length →
    karatsuba A B = wordsOf (2 * A.length) (clmul (polyOfWords A) (polyOfWords B))

/-- The unbalanced split, with either balanced algorithm, gives the exact product of a 2n-word and an n-word operand
(R127: "It gives the exact P of rule R126", which the spec marks as derived). -/
def Obligations.UnbalancedSplitComputesTheProduct : Prop :=
  ∀ A B : List Word, 1 ≤ B.length → A.length = 2 * B.length →
    unbalanced gradeSchool A B = wordsOf (3 * B.length) (clmul (polyOfWords A) (polyOfWords B)) ∧
    unbalanced karatsuba A B = wordsOf (3 * B.length) (clmul (polyOfWords A) (polyOfWords B))

/-! ### Reduction and the jump polynomial -/

/-- `x mod φ` is the unique remainder: its degree is below 19937, x ⊕ r is a multiple of φ, and no other r has both (R10).
-/
def Obligations.ModPhiIsTheUniqueRemainder : Prop :=
  ∀ x : Nat, modPhi x < 2 ^ 19937 ∧ (∃ q, x ^^^ modPhi x = clmul q phi) ∧
    ∀ r q, r < 2 ^ 19937 → x ^^^ r = clmul q phi → r = modPhi x

/-- The source's fold computes the remainder for every list of adjacent blocks of at most 623 bits that covers the bits from
19937 on, from high to low (R143, informative: "Any list of such blocks ... computes X mod φ"). -/
def Obligations.FoldingBlocksReduces : Prop :=
  ∀ (x : Nat) (blocks : List (Nat × Nat)), BlocksCover x blocks → foldBlocks x blocks = modPhi x

/-- ROM table P: `P[i][j] = t^((j+1)·8^i) mod φ`, of degree below 19937 (R142). -/
def Obligations.RomPHoldsItsFormula : Prop :=
  ∀ i j : Nat, i ≤ 20 → j ≤ 6 → romP i j = modPhi (2 ^ ((j + 1) * 8 ^ i)) ∧ romP i j < 2 ^ 19937

/-- The jump polynomial of a step s ≤ 2⁶³ − 1 is t^s mod φ (R146: "The result is g = t^s mod φ", which the spec marks as
derived). -/
def Obligations.JumpPolyIsThePowerOfT : Prop := ∀ s : Nat, s ≤ 2 ^ 63 - 1 → jumpPoly s = modPhi (2 ^ s)

/-- Composition (R148, which the spec marks as derived): t^a mod φ times t^b mod φ, reduced, is t^(a+b) mod φ; so the product of the 624-word images of two
jump polynomials, as PMUL writes it and PMOD reduces it, is the jump polynomial of the sum. -/
def Obligations.JumpPolysCompose : Prop :=
  (∀ a b : Nat, modPhi (clmul (modPhi (2 ^ a)) (modPhi (2 ^ b))) = modPhi (2 ^ (a + b))) ∧
  ∀ a b : Nat, a + b ≤ 2 ^ 63 - 1 →
    wordsOf 624 (modPhi (polyOfWords (wordsOf 1248
      (clmul (polyOfWords (wordsOf 624 (jumpPoly a))) (polyOfWords (wordsOf 624 (jumpPoly b)))))))
      = wordsOf 624 (jumpPoly (a + b))

/-! ### MRG32k3a -/

/-- ROM tables T₁ and T₂: `Tₖ[i][j] = Aₖ^((j+1)·8^i) mod mₖ`, with entries below mₖ (R166). -/
def Obligations.RomTHoldsItsFormula : Prop :=
  ∀ (k : Component) (i j : Nat), i ≤ 20 → j ≤ 6 →
    romT k i j = matPower k ((j + 1) * 8 ^ i) ∧ (romT k i j).legal k.modulus = true

/-- The digit loop of MPOW gives Aₖ^s mod mₖ for every s ≤ 2⁶³ − 1 (R171: "The result is Aₖ^s mod mₖ",
which the spec marks as derived). -/
def Obligations.MpowIsThePowerOfA : Prop :=
  ∀ (k : Component) (s : Nat), s ≤ 2 ^ 63 - 1 → mrgPow k s = matPower k s

/-- Left-multiplying a legal state by A₁ and A₂ is one step of the generator (R162, which the spec marks as
derived from R161). -/
def Obligations.TransitionMatricesAreOneStep : Prop :=
  ∀ σ : MrgState, σ.legal = true →
    mrgApply σ (Component.transition .one) (Component.transition .two) = mrgStep σ

/-- Jump equals stepping (R173, which the spec marks as derived): for a legal state and s ≤ 2⁶³ − 1 the state that MRG_JUMP writes is MrgStep applied s times, and
so jumps compose. -/
def Obligations.MrgJumpEqualsStepping : Prop :=
  ∀ σ : MrgState, σ.legal = true →
    (∀ s, s ≤ 2 ^ 63 - 1 → mrgJump σ s = mrgStep^[s] σ) ∧
    (∀ s, s ≤ 2 ^ 63 - 1 → mrgApply σ (mrgPow .one s) (mrgPow .two s) = mrgStep^[s] σ) ∧
    ∀ a b, a + b ≤ 2 ^ 63 - 1 → mrgJump (mrgJump σ a) b = mrgJump σ (a + b)

/-- MRG_APPLY and MRG_JUMP leave a legal state at dst legal, however they complete, and a component that is all zero stays
all zero (R165, R174). -/
def Obligations.MrgCommandsKeepLegalStates : Prop :=
  ∀ i ∈ [Instr.mrgApply, Instr.mrgJump], ∀ s t : State, exec i s = .next t →
    (s.readMrg s.operands.dst.toNat).legal = true →
    (t.readMrg s.operands.dst.toNat).legal = true ∧
    ((s.readMrg s.operands.dst.toNat).c1 = ⟨0, 0, 0⟩ → (t.readMrg s.operands.dst.toNat).c1 = ⟨0, 0, 0⟩) ∧
    ((s.readMrg s.operands.dst.toNat).c2 = ⟨0, 0, 0⟩ → (t.readMrg s.operands.dst.toNat).c2 = ⟨0, 0, 0⟩)

/-! ### MT19937 -/

/-- Collection (R197): coefficient 2K − 1 − j of pm is the low bit of the j-th raw output, pm has no coefficient from 2K on,
and the private copy has been advanced 2K times. -/
def Obligations.CollectedBitsAreLowBits : Prop :=
  ∀ w : MtState,
    (∀ j, j < 39874 → (collect w).1.testBit (39873 - j) = (mtOutput w j).getLsbD 0) ∧
    (collect w).1 < 2 ^ 39874 ∧ (collect w).2 = mtAdvance 39874 w

/-- The walk's result does not depend on its starting array or on y0's first value (R200's sentence that the spec marks as
derived by computation). -/
def Obligations.WalkForgetsItsStart : Prop :=
  ∀ (q : Nat → Bool) (mt mt' : MtArray) (y0 y0' : Word),
    walkLoop q 19938 mt y0 = walkLoop q 19938 mt' y0'

/-- The zero polynomial gives the zero array, and an all-zero array gives the zero array for every polynomial and cursor
(R195, R196). -/
def Obligations.ZeroPolynomialOrArrayGivesZero : Prop :=
  (∀ w : MtState, mtReconstruct 0 w = Vector.replicate 624 0#32) ∧
  ∀ g idx : Nat, mtReconstruct g ⟨Vector.replicate 624 0#32, idx⟩ = Vector.replicate 624 0#32

/-- Jump equals stepping for MT19937, step 0 meaning the polynomial 1 (R203 without the case in which it fails; log 15): the
state that MT_JUMP writes gives the outputs of the state advanced by s raw draws, for a cursor from 1 to 624, and at cursor 0
when the jump polynomial has the constant term 0; for every legal cursor it does from the second output on, and in bit 31 of
the first. -/
def Obligations.MtJumpEqualsSteppingInOutputs : Prop :=
  ∀ w : MtState, w.idx ≤ 624 → ∀ s, s ≤ 2 ^ 63 - 1 →
    (1 ≤ w.idx → outputEquivalent ⟨mtReconstruct (jumpPoly s) w, 0⟩ (mtAdvance s w)) ∧
    (w.idx = 0 → (jumpPoly s).testBit 0 = false →
      outputEquivalent ⟨mtReconstruct (jumpPoly s) w, 0⟩ (mtAdvance s w)) ∧
    (∀ k, 1 ≤ k → mtOutput ⟨mtReconstruct (jumpPoly s) w, 0⟩ k = mtOutput (mtAdvance s w) k) ∧
    (mtOutput ⟨mtReconstruct (jumpPoly s) w, 0⟩ 0).getLsbD 31 = (mtOutput (mtAdvance s w) 0).getLsbD 31

/-- At cursor 0 the rules R196 to R202 do not always give what R203 says: some state with idx = 0 and some legal step s ≥ 1
make a state that is not output-equivalent to the stepped one (log 15). -/
def Obligations.OutputEquivalenceFailsAtCursorZero : Prop :=
  ∃ (w : MtState) (s : Nat), w.idx = 0 ∧ 1 ≤ s ∧ s ≤ 2 ^ 63 - 1 ∧
    ¬outputEquivalent ⟨mtReconstruct (jumpPoly s) w, 0⟩ (mtAdvance s w)
end

