-- ==== Sys2Proof/Laws/State.lean ====
section
/-! SUPPORT. One lemma for each field of State and each update of it, true by unfolding, so that no proof unfolds a record
update; and what the updates that leave WMEM, PARAM and RUN alone do to the views of them. -/

namespace Sys2Proof.Machine

section SetOvrFields

variable (s : State)

@[simp] theorem State.setOvr_cmd : (s.setOvr).cmd = s.cmd := rfl
@[simp] theorem State.setOvr_status : (s.setOvr).status = { s.status with ovr := true } := rfl
@[simp] theorem State.setOvr_err : (s.setOvr).err = s.err := rfl
@[simp] theorem State.setOvr_param : (s.setOvr).param = s.param := rfl
@[simp] theorem State.setOvr_arg : (s.setOvr).arg = s.arg := rfl
@[simp] theorem State.setOvr_run : (s.setOvr).run = s.run := rfl
@[simp] theorem State.setOvr_wmem : (s.setOvr).wmem = s.wmem := rfl
@[simp] theorem State.setOvr_freeCount : (s.setOvr).freeCount = s.freeCount := rfl
@[simp] theorem State.setOvr_inputs : (s.setOvr).inputs = s.inputs := rfl
@[simp] theorem State.setOvr_response : (s.setOvr).response = s.response := rfl
@[simp] theorem State.setOvr_readWord (x : Nat) : (s.setOvr).readWord x = s.readWord x := rfl
@[simp] theorem State.setOvr_wmemWords : (s.setOvr).wmemWords = s.wmemWords := rfl
@[simp] theorem State.setOvr_operands : (s.setOvr).operands = s.operands := rfl

end SetOvrFields

section SetHazFields

variable (s : State)

@[simp] theorem State.setHaz_cmd : (s.setHaz).cmd = s.cmd := rfl
@[simp] theorem State.setHaz_status : (s.setHaz).status = { s.status with haz := true } := rfl
@[simp] theorem State.setHaz_err : (s.setHaz).err = s.err := rfl
@[simp] theorem State.setHaz_param : (s.setHaz).param = s.param := rfl
@[simp] theorem State.setHaz_arg : (s.setHaz).arg = s.arg := rfl
@[simp] theorem State.setHaz_run : (s.setHaz).run = s.run := rfl
@[simp] theorem State.setHaz_wmem : (s.setHaz).wmem = s.wmem := rfl
@[simp] theorem State.setHaz_freeCount : (s.setHaz).freeCount = s.freeCount := rfl
@[simp] theorem State.setHaz_inputs : (s.setHaz).inputs = s.inputs := rfl
@[simp] theorem State.setHaz_response : (s.setHaz).response = s.response := rfl
@[simp] theorem State.setHaz_readWord (x : Nat) : (s.setHaz).readWord x = s.readWord x := rfl
@[simp] theorem State.setHaz_wmemWords : (s.setHaz).wmemWords = s.wmemWords := rfl
@[simp] theorem State.setHaz_operands : (s.setHaz).operands = s.operands := rfl

end SetHazFields

section SkipFields

variable (s : State) (v : Word)

@[simp] theorem State.skip_cmd : (s.skip v).cmd = v := rfl
@[simp] theorem State.skip_status : (s.skip v).status = { s.status with done := true } := rfl
@[simp] theorem State.skip_err : (s.skip v).err = s.err := rfl
@[simp] theorem State.skip_param : (s.skip v).param = s.param := rfl
@[simp] theorem State.skip_arg : (s.skip v).arg = s.arg := rfl
@[simp] theorem State.skip_run : (s.skip v).run = s.run := rfl
@[simp] theorem State.skip_wmem : (s.skip v).wmem = s.wmem := rfl
@[simp] theorem State.skip_freeCount : (s.skip v).freeCount = s.freeCount := rfl
@[simp] theorem State.skip_inputs : (s.skip v).inputs = s.inputs := rfl
@[simp] theorem State.skip_response : (s.skip v).response = s.response := rfl
@[simp] theorem State.skip_readWord (x : Nat) : (s.skip v).readWord x = s.readWord x := rfl
@[simp] theorem State.skip_wmemWords : (s.skip v).wmemWords = s.wmemWords := rfl
@[simp] theorem State.skip_operands : (s.skip v).operands = s.operands := rfl

end SkipFields

section AcceptFields

variable (s : State) (v : Word)

@[simp] theorem State.accept_cmd : (s.accept v).cmd = v := rfl
@[simp] theorem State.accept_status : (s.accept v).status = { s.status with done := false } := rfl
@[simp] theorem State.accept_err : (s.accept v).err = s.err := rfl
@[simp] theorem State.accept_param : (s.accept v).param = s.param := rfl
@[simp] theorem State.accept_arg : (s.accept v).arg = s.arg := rfl
@[simp] theorem State.accept_run : (s.accept v).run = .busy v s.arg s.err := rfl
@[simp] theorem State.accept_wmem : (s.accept v).wmem = s.wmem := rfl
@[simp] theorem State.accept_freeCount : (s.accept v).freeCount = s.freeCount := rfl
@[simp] theorem State.accept_inputs : (s.accept v).inputs = s.inputs := rfl
@[simp] theorem State.accept_response : (s.accept v).response = s.response := rfl
@[simp] theorem State.accept_readWord (x : Nat) : (s.accept v).readWord x = s.readWord x := rfl
@[simp] theorem State.accept_wmemWords : (s.accept v).wmemWords = s.wmemWords := rfl

end AcceptFields

section WriteStatusFields

variable (s : State) (v : Word)

@[simp] theorem State.writeStatus_cmd : (s.writeStatus v).cmd = s.cmd := rfl
@[simp] theorem State.writeStatus_status : (s.writeStatus v).status = s.status.writeOneToClear v := rfl
@[simp] theorem State.writeStatus_err : (s.writeStatus v).err = s.err := rfl
@[simp] theorem State.writeStatus_param : (s.writeStatus v).param = s.param := rfl
@[simp] theorem State.writeStatus_arg : (s.writeStatus v).arg = s.arg := rfl
@[simp] theorem State.writeStatus_run : (s.writeStatus v).run = s.run := rfl
@[simp] theorem State.writeStatus_wmem : (s.writeStatus v).wmem = s.wmem := rfl
@[simp] theorem State.writeStatus_freeCount : (s.writeStatus v).freeCount = s.freeCount := rfl
@[simp] theorem State.writeStatus_inputs : (s.writeStatus v).inputs = s.inputs := rfl
@[simp] theorem State.writeStatus_response : (s.writeStatus v).response = s.response := rfl
@[simp] theorem State.writeStatus_readWord (x : Nat) : (s.writeStatus v).readWord x = s.readWord x := rfl
@[simp] theorem State.writeStatus_wmemWords : (s.writeStatus v).wmemWords = s.wmemWords := rfl
@[simp] theorem State.writeStatus_operands : (s.writeStatus v).operands = s.operands := rfl

end WriteStatusFields

section RespondFields

variable (s : State) (r : Option Word)

@[simp] theorem State.respond_cmd : (s.respond r).cmd = s.cmd := rfl
@[simp] theorem State.respond_status : (s.respond r).status = s.status := rfl
@[simp] theorem State.respond_err : (s.respond r).err = s.err := rfl
@[simp] theorem State.respond_param : (s.respond r).param = s.param := rfl
@[simp] theorem State.respond_arg : (s.respond r).arg = s.arg := rfl
@[simp] theorem State.respond_run : (s.respond r).run = s.run := rfl
@[simp] theorem State.respond_wmem : (s.respond r).wmem = s.wmem := rfl
@[simp] theorem State.respond_freeCount : (s.respond r).freeCount = s.freeCount := rfl
@[simp] theorem State.respond_inputs : (s.respond r).inputs = s.inputs := rfl
@[simp] theorem State.respond_response : (s.respond r).response = r := rfl
@[simp] theorem State.respond_readWord (x : Nat) : (s.respond r).readWord x = s.readWord x := rfl
@[simp] theorem State.respond_wmemWords : (s.respond r).wmemWords = s.wmemWords := rfl
@[simp] theorem State.respond_operands : (s.respond r).operands = s.operands := rfl

end RespondFields

section ReadWmemBusyFields

variable (s : State)

@[simp] theorem State.readWmemBusy_cmd : (s.readWmemBusy).cmd = s.cmd := rfl
@[simp] theorem State.readWmemBusy_status : (s.readWmemBusy).status = { s.status with haz := true } := rfl
@[simp] theorem State.readWmemBusy_err : (s.readWmemBusy).err = s.err := rfl
@[simp] theorem State.readWmemBusy_param : (s.readWmemBusy).param = s.param := rfl
@[simp] theorem State.readWmemBusy_arg : (s.readWmemBusy).arg = s.arg := rfl
@[simp] theorem State.readWmemBusy_run : (s.readWmemBusy).run = s.run := rfl
@[simp] theorem State.readWmemBusy_wmem : (s.readWmemBusy).wmem = s.wmem := rfl
@[simp] theorem State.readWmemBusy_freeCount : (s.readWmemBusy).freeCount = s.freeCount + 1 := rfl
@[simp] theorem State.readWmemBusy_inputs : (s.readWmemBusy).inputs = s.inputs := rfl
@[simp] theorem State.readWmemBusy_response : (s.readWmemBusy).response = some (Config.anyWord s.freeCount) := rfl
@[simp] theorem State.readWmemBusy_readWord (x : Nat) : (s.readWmemBusy).readWord x = s.readWord x := rfl
@[simp] theorem State.readWmemBusy_wmemWords : (s.readWmemBusy).wmemWords = s.wmemWords := rfl
@[simp] theorem State.readWmemBusy_operands : (s.readWmemBusy).operands = s.operands := rfl

end ReadWmemBusyFields

section WriteWordsFields

variable (s : State) (a : Nat) (ws : List Word)

@[simp] theorem State.writeWords_cmd : (s.writeWords a ws).cmd = s.cmd := rfl
@[simp] theorem State.writeWords_status : (s.writeWords a ws).status = s.status := rfl
@[simp] theorem State.writeWords_err : (s.writeWords a ws).err = s.err := rfl
@[simp] theorem State.writeWords_param : (s.writeWords a ws).param = s.param := rfl
@[simp] theorem State.writeWords_arg : (s.writeWords a ws).arg = s.arg := rfl
@[simp] theorem State.writeWords_run : (s.writeWords a ws).run = s.run := rfl
@[simp] theorem State.writeWords_wmem : (s.writeWords a ws).wmem = s.wmem.writeList a ws := rfl
@[simp] theorem State.writeWords_freeCount : (s.writeWords a ws).freeCount = s.freeCount := rfl
@[simp] theorem State.writeWords_inputs : (s.writeWords a ws).inputs = s.inputs := rfl
@[simp] theorem State.writeWords_response : (s.writeWords a ws).response = s.response := rfl
@[simp] theorem State.writeWords_wmemWords : (s.writeWords a ws).wmemWords = s.wmemWords := rfl
@[simp] theorem State.writeWords_operands : (s.writeWords a ws).operands = s.operands := rfl

end WriteWordsFields

section CompleteOkFields

variable (s : State) (a : Nat) (ws : List Word)

@[simp] theorem State.completeOk_cmd : (s.completeOk a ws).cmd = s.cmd := rfl
@[simp] theorem State.completeOk_status : (s.completeOk a ws).status = { s.status with done := true } := rfl
@[simp] theorem State.completeOk_err : (s.completeOk a ws).err = s.err := rfl
@[simp] theorem State.completeOk_param : (s.completeOk a ws).param = s.param := rfl
@[simp] theorem State.completeOk_arg : (s.completeOk a ws).arg = s.arg := rfl
@[simp] theorem State.completeOk_run : (s.completeOk a ws).run = .idle := rfl
@[simp] theorem State.completeOk_wmem : (s.completeOk a ws).wmem = s.wmem.writeList a ws := rfl
@[simp] theorem State.completeOk_freeCount : (s.completeOk a ws).freeCount = s.freeCount := rfl
@[simp] theorem State.completeOk_inputs : (s.completeOk a ws).inputs = s.inputs := rfl
@[simp] theorem State.completeOk_response : (s.completeOk a ws).response = s.response := rfl
@[simp] theorem State.completeOk_wmemWords : (s.completeOk a ws).wmemWords = s.wmemWords := rfl

end CompleteOkFields

section CompleteErrorFields

variable (s : State) (c : ErrCode)

@[simp] theorem State.completeError_cmd : (s.completeError c).cmd = s.cmd := rfl
@[simp] theorem State.completeError_status : (s.completeError c).status = { s.status with done := true } := rfl
@[simp] theorem State.completeError_err : (s.completeError c).err = c.toWord := rfl
@[simp] theorem State.completeError_param : (s.completeError c).param = s.param := rfl
@[simp] theorem State.completeError_arg : (s.completeError c).arg = s.arg := rfl
@[simp] theorem State.completeError_run : (s.completeError c).run = .idle := rfl
@[simp] theorem State.completeError_wmem : (s.completeError c).wmem = s.wmem := rfl
@[simp] theorem State.completeError_freeCount : (s.completeError c).freeCount = s.freeCount := rfl
@[simp] theorem State.completeError_inputs : (s.completeError c).inputs = s.inputs := rfl
@[simp] theorem State.completeError_response : (s.completeError c).response = s.response := rfl
@[simp] theorem State.completeError_readWord (x : Nat) : (s.completeError c).readWord x = s.readWord x := rfl
@[simp] theorem State.completeError_wmemWords : (s.completeError c).wmemWords = s.wmemWords := rfl

end CompleteErrorFields

section HardResetFields

variable (s : State)

@[simp] theorem State.hardReset_cmd : (s.hardReset).cmd = 0#32 := rfl
@[simp] theorem State.hardReset_status : (s.hardReset).status = ⟨false, false, false⟩ := rfl
@[simp] theorem State.hardReset_err : (s.hardReset).err = 0#32 := rfl
@[simp] theorem State.hardReset_param : (s.hardReset).param = s.param := rfl
@[simp] theorem State.hardReset_arg : (s.hardReset).arg = ⟨0#32, 0#32, 0#32, 0#32, 0#32, 0#32⟩ := rfl
@[simp] theorem State.hardReset_run : (s.hardReset).run = .idle := rfl
@[simp] theorem State.hardReset_wmem :
    (s.hardReset).wmem = s.wmem.writeList s.abandonedRegion.start (freeWords s.freeCount s.abandonedRegion.len) := rfl
@[simp] theorem State.hardReset_freeCount : (s.hardReset).freeCount = s.freeCount + s.abandonedRegion.len := rfl
@[simp] theorem State.hardReset_inputs : (s.hardReset).inputs = s.inputs := rfl
@[simp] theorem State.hardReset_response : (s.hardReset).response = s.response := rfl
@[simp] theorem State.hardReset_wmemWords : (s.hardReset).wmemWords = s.wmemWords := rfl

end HardResetFields

/-- The operands of an accepted command are the ARG registers at acceptance (R102). -/
@[simp] theorem State.accept_operands (s : State) (v : Word) : (s.accept v).operands = s.arg := rfl

/-- While Busy the operands are those RUN holds (R30). -/
theorem State.operands_of_busy {s : State} {c : Word} {a : Args} {e : Word} (h : s.run = .busy c a e) :
    s.operands = a := by
  simp [State.operands, h]

/-- Popping a pending input changes no view of the machine. -/
@[simp] theorem State.readWord_inputs (s : State) (l : List Input) (a : Nat) :
    State.readWord { s with inputs := l } a = s.readWord a := rfl
@[simp] theorem State.wmemWords_inputs (s : State) (l : List Input) :
    State.wmemWords { s with inputs := l } = s.wmemWords := rfl
@[simp] theorem State.operands_inputs (s : State) (l : List Input) :
    State.operands { s with inputs := l } = s.operands := rfl
@[simp] theorem State.abandonedRegion_inputs (s : State) (l : List Input) :
    State.abandonedRegion { s with inputs := l } = s.abandonedRegion := rfl

@[simp] theorem Run.isBusy_idle : Run.isBusy .idle = false := rfl
@[simp] theorem Run.isBusy_busy (c : Word) (a : Args) (e : Word) : Run.isBusy (.busy c a e) = true := rfl

/-- RUN is Idle exactly when BUSY is 0 (R23, R30). -/
theorem Run.isBusy_eq_false {r : Run} : r.isBusy = false ↔ r = .idle := by cases r <;> simp

/-- RUN is Busy exactly when BUSY is 1 (R23, R30). -/
theorem Run.isBusy_eq_true {r : Run} : r.isBusy = true ↔ ∃ c a e, r = .busy c a e := by cases r <;> simp

@[simp] theorem Args.get_set_self (a : Args) (r : ArgReg) (v : Word) : (a.set r v).get r = v := by cases r <;> rfl
theorem Args.get_set_ne (a : Args) {r q : ArgReg} (h : q ≠ r) (v : Word) : (a.set r v).get q = a.get q := by
  cases r <;> cases q <;> first | rfl | exact absurd rfl h

end Sys2Proof.Machine
end

