-- ==== Sys2Proof/Laws/Memory.lean ====
section
/-! SUPPORT. WMEM: what a read sees after a write, and that every write keeps the canonical form and the set of words
that exist. -/

namespace Sys2Proof.Machine

@[simp] theorem Memory.lookup_set_self (m : Memory) (a : Nat) (v : Word) : (m.set a v).lookup a = some v := by
  induction m with
  | nil => simp [Memory.set, Memory.lookup]
  | cons p m ih =>
    obtain ⟨b, w⟩ := p
    simp only [Memory.set]
    split
    · simp [Memory.lookup]
    · split
      · simp [Memory.lookup]
      · simp [Memory.lookup, *]

theorem Memory.lookup_set_ne (m : Memory) {a c : Nat} (h : c ≠ a) (v : Word) : (m.set a v).lookup c = m.lookup c := by
  induction m with
  | nil => simp [Memory.set, Memory.lookup, h]
  | cons p m ih =>
    obtain ⟨b, w⟩ := p
    simp only [Memory.set]
    split
    · simp [Memory.lookup, h]
    · split
      · subst_vars
        simp [Memory.lookup, h]
      · simp [Memory.lookup, ih]

/-- What a word holds after `MemWrite` (R12). -/
theorem Memory.lookup_writeList (m : Memory) (a : Nat) (ws : List Word) (c : Nat) :
    (m.writeList a ws).lookup c = if h : a ≤ c ∧ c - a < ws.length then some ws[c - a] else m.lookup c := by
  induction ws generalizing a with
  | nil => simp [Memory.writeList]
  | cons w ws ih =>
    simp only [Memory.writeList]
    by_cases hc : c = a
    · subst hc
      simp
    · rw [Memory.lookup_set_ne _ hc, ih]
      by_cases h1 : a + 1 ≤ c ∧ c - (a + 1) < ws.length
      · have h2 : a ≤ c ∧ c - a < (w :: ws).length := by simp; omega
        have h3 : c - a = c - (a + 1) + 1 := by omega
        rw [dif_pos h1, dif_pos h2]
        simp [h3]
      · have h2 : ¬(a ≤ c ∧ c - a < (w :: ws).length) := by simp; omega
        rw [dif_neg h1, dif_neg h2]

/-- A written word reads back. -/
theorem State.readWord_writeList (s : State) (a : Nat) (ws : List Word) (k : Nat) (h : k < ws.length) :
    State.readWord { s with wmem := s.wmem.writeList a ws } (a + k) = ws[k] := by
  simp [State.readWord, Memory.lookup_writeList, h]

/-- A word outside the written region keeps its value (R57). -/
theorem State.readWord_writeList_outside (s : State) (a : Nat) (ws : List Word) (c : Nat)
    (h : c < a ∨ a + ws.length ≤ c) :
    State.readWord { s with wmem := s.wmem.writeList a ws } c = s.readWord c := by
  have : ¬(a ≤ c ∧ c - a < ws.length) := by omega
  simp [State.readWord, Memory.lookup_writeList, this]

theorem State.readWord_set_self (s : State) (a : Nat) (v : Word) :
    State.readWord { s with wmem := s.wmem.set a v } a = v := by
  simp [State.readWord]

theorem State.readWord_set_ne (s : State) {a c : Nat} (h : c ≠ a) (v : Word) :
    State.readWord { s with wmem := s.wmem.set a v } c = s.readWord c := by
  simp [State.readWord, Memory.lookup_set_ne _ h]

/-- What is listed after one write: the written pair, or a pair that was listed. -/
theorem Memory.mem_set {m : Memory} {a : Nat} {v : Word} {p : Nat × Word} (h : p ∈ m.set a v) :
    p = (a, v) ∨ p ∈ m := by
  induction m with
  | nil => simpa [Memory.set] using h
  | cons q m ih =>
    obtain ⟨b, w⟩ := q
    simp only [Memory.set] at h
    split at h
    · simpa using h
    · split at h
      · rcases List.mem_cons.1 h with h | h
        · exact .inl h
        · exact .inr (List.mem_cons_of_mem _ h)
      · rcases List.mem_cons.1 h with h | h
        · exact .inr (by simp [h])
        · exact (ih h).imp id (List.mem_cons_of_mem _)

/-- One write keeps the canonical form. -/
theorem Memory.set_wf {m : Memory} (h : Memory.wf m) (a : Nat) (v : Word) : Memory.wf (m.set a v) := by
  induction m with
  | nil => simp [Memory.set, Memory.wf]
  | cons q m ih =>
    obtain ⟨b, w⟩ := q
    have hb := (List.pairwise_cons.1 h).1
    have hm := (List.pairwise_cons.1 h).2
    simp only [Memory.set]
    split
    · refine List.pairwise_cons.2 ⟨fun p hp => ?_, h⟩
      rcases List.mem_cons.1 hp with rfl | hp
      · assumption
      · exact Nat.lt_trans ‹a < b› (hb p hp)
    · split
      · subst_vars
        exact List.pairwise_cons.2 ⟨hb, hm⟩
      · refine List.pairwise_cons.2 ⟨fun p hp => ?_, ih hm⟩
        rcases Memory.mem_set hp with rfl | hp
        · show b < a
          omega
        · exact hb p hp

/-- `MemWrite` keeps the canonical form. -/
theorem Memory.writeList_wf {m : Memory} (h : Memory.wf m) (a : Nat) (ws : List Word) :
    Memory.wf (m.writeList a ws) := by
  induction ws generalizing a with
  | nil => exact h
  | cons w ws ih => exact Memory.set_wf (ih _) _ _

/-- What is listed after `MemWrite`: a word of the region, or a pair that was listed. -/
theorem Memory.mem_writeList {m : Memory} {a : Nat} {ws : List Word} {p : Nat × Word} (h : p ∈ m.writeList a ws) :
    (a ≤ p.1 ∧ p.1 < a + ws.length) ∨ p ∈ m := by
  induction ws generalizing a with
  | nil => exact .inr h
  | cons w ws ih =>
    rcases Memory.mem_set h with rfl | h
    · left
      simp
    · rcases ih h with h | h
      · left
        simp
        omega
      · exact .inr h

/-- The empty memory of power-on is canonical. -/
theorem Memory.wf_nil : Memory.wf [] := List.Pairwise.nil

/-- WMEM after power-on reset has the canonical form. -/
theorem State.reset_wmem_wf : Memory.wf State.reset.wmem := Memory.wf_nil

@[simp] theorem State.length_readWords (s : State) (a n : Nat) : (s.readWords a n).length = n := by
  simp [State.readWords]

@[simp] theorem State.getElem_readWords (s : State) (a n k : Nat) (h : k < (s.readWords a n).length) :
    (s.readWords a n)[k] = s.readWord (a + k) := by
  simp [State.readWords]

@[simp] theorem length_freeWords (k n : Nat) : (freeWords k n).length = n := by simp [freeWords]

end Sys2Proof.Machine
end

