-- ==== Sys2Proof/Laws/Ops.lean ====
section
/-! SUPPORT. Everything a shared operation can do, said once: the checks, the checked completion, the issue of a command,
and the form that all sixteen meanings share. -/

namespace Sys2Proof.Machine

theorem Region.inRange_iff {ww : Nat} {r : Region} : r.inRange ww = true ↔ r.start + r.len ≤ ww := by
  simp [Region.inRange]

/-- Two regions do not overlap exactly when one ends before the other begins (R110). -/
theorem Region.overlaps_eq_false {x y : Region} :
    x.overlaps y = false ↔ x.start + x.len ≤ y.start ∨ y.start + y.len ≤ x.start := by
  simp only [Region.overlaps, Bool.and_eq_false_iff, decide_eq_false_iff_not]
  omega

theorem lengthFails_eq_false {i : Instr} {o : Args} :
    lengthFails i o = false ↔ (takesLength i = true → 1 ≤ o.n ∧ o.n ≤ 624) := by
  cases h : takesLength i <;> simp [lengthFails, h, maxLen]

theorem rangeFails_eq_false {ww : Nat} {i : Instr} {o : Args} :
    rangeFails ww i o = false ↔
      ∀ r ∈ (footprint i o).sources ++ (footprint i o).dest.toList, r.start + r.len ≤ ww := by
  simp only [rangeFails, List.any_eq_false, Bool.not_eq_true', Bool.not_eq_false]
  exact forall₂_congr fun r _ => Region.inRange_iff

theorem overlapFails_eq_false {i : Instr} {o : Args} :
    overlapFails i o = false ↔
      ∀ d ∈ (footprint i o).dest, ∀ r ∈ (footprint i o).sources,
        d.start + d.len ≤ r.start ∨ r.start + r.len ≤ d.start := by
  simp only [overlapFails, List.any_eq_false, Bool.not_eq_true, Region.overlaps_eq_false, Option.mem_toList,
    Option.mem_def]

theorem stepFails_eq_false {i : Instr} {o : Args} :
    stepFails i o = false ↔ (takesStep i = true → o.step < 2 ^ 63) := by
  cases h : takesStep i <;> simp [stepFails, h, stepLimit]
  omega

/-- Checks 2 to 5 pass (R103). -/
theorem firstError_eq_none {ww : Nat} {i : Instr} {o : Args} :
    firstError ww i o = none ↔
      lengthFails i o = false ∧ rangeFails ww i o = false ∧ overlapFails i o = false ∧ stepFails i o = false := by
  unfold firstError
  cases lengthFails i o <;> cases rangeFails ww i o <;> cases overlapFails i o <;> cases stepFails i o <;> simp

/-- Which check of 2 to 5 decides (R103). -/
theorem firstError_cases (ww : Nat) (i : Instr) (o : Args) :
    (lengthFails i o = true ∧ firstError ww i o = some .badLength) ∨
    (lengthFails i o = false ∧ rangeFails ww i o = true ∧ firstError ww i o = some .badAddress) ∨
    (lengthFails i o = false ∧ rangeFails ww i o = false ∧ overlapFails i o = true ∧
      firstError ww i o = some .overlap) ∨
    (lengthFails i o = false ∧ rangeFails ww i o = false ∧ overlapFails i o = false ∧ stepFails i o = true ∧
      firstError ww i o = some .stepTooLarge) ∨
    firstError ww i o = none := by
  unfold firstError
  cases lengthFails i o <;> cases rangeFails ww i o <;> cases overlapFails i o <;> cases stepFails i o <;> simp

/-- When checks 2 to 5 pass, the command's own rule decides. -/
theorem State.checked_of_none {s : State} {i : Instr} (h : firstError s.wmemWords i s.operands = none)
    (body : Args → State) : s.checked i body = body s.operands := by
  simp [State.checked, h]

/-- When one of checks 2 to 5 fails, its code is the whole effect. -/
theorem State.checked_of_some {s : State} {i : Instr} {c : ErrCode}
    (h : firstError s.wmemWords i s.operands = some c) (body : Args → State) :
    s.checked i body = s.completeError c := by
  simp [State.checked, h]

/-- Everything a checked completion can do. -/
theorem State.checked_cases (s : State) (i : Instr) (body : Args → State) :
    (∃ c, firstError s.wmemWords i s.operands = some c ∧ s.checked i body = s.completeError c) ∨
    (firstError s.wmemWords i s.operands = none ∧ s.checked i body = body s.operands) := by
  cases h : firstError s.wmemWords i s.operands with
  | some c => exact .inl ⟨c, rfl, State.checked_of_some h body⟩
  | none => exact .inr ⟨rfl, State.checked_of_none h body⟩

/-- What a command does once checks 2 to 5 have passed (R103 checks 6 to 8), with the code it may still raise. -/
def resultOf (i : Instr) (s : State) : Args → State :=
  match i with
  | .nop => fun _ => s.completeOk 0 []
  | .clmul32 => fun o => s.completeOk o.dstAddr (lowHigh (clmul32 (s.readWord o.aAddr) (s.readWord o.bAddr)))
  | .pmulGs => s.pmulResult
  | .pmulKa => s.pmulResult
  | .pmuluGs => s.pmuluResult
  | .pmuluKa => s.pmuluResult
  | .pmod => fun o => s.completeOk o.dstAddr (wordsOf polyWords (modPhi (s.poly o.aAddr 1248)))
  | .jpoly => fun o => s.completeOk o.dstAddr (wordsOf polyWords (jumpPoly o.step))
  | .mmulM1 => s.mmulResult .one
  | .mmulM2 => s.mmulResult .two
  | .mpowM1 => s.mpowResult .one
  | .mpowM2 => s.mpowResult .two
  | .mrgApply => fun o =>
    if (s.readMrg o.dstAddr).legal && (s.readMat o.aAddr).legal mrgM1 && (s.readMat o.bAddr).legal mrgM2 then
      s.completeOk o.dstAddr (mrgApply (s.readMrg o.dstAddr) (s.readMat o.aAddr) (s.readMat o.bAddr)).words
    else s.completeError .badOperand
  | .mrgJump => fun o =>
    if o.step = 0 then s.completeOk o.dstAddr []
    else if (s.readMrg o.dstAddr).legal then s.completeOk o.dstAddr (mrgJump (s.readMrg o.dstAddr) o.step).words
    else s.completeError .badOperand
  | .mtApply => fun o => s.mtApplyResult o (s.poly o.aAddr polyWords)
  | .mtJump => fun o => if o.step = 0 then s.completeOk o.dstAddr [] else s.mtApplyResult o (jumpPoly o.step)

/-- Every meaning is a checked completion (R115). -/
theorem exec_eq_checked (i : Instr) (s : State) : exec i s = .next (s.checked i (resultOf i s)) := by
  cases i <;> rfl

/-- A meaning whose checks 2 to 5 pass. -/
theorem exec_of_firstError_none {i : Instr} {s : State} (h : firstError s.wmemWords i s.operands = none) :
    exec i s = .next (resultOf i s s.operands) := by
  rw [exec_eq_checked, State.checked_of_none h]

/-- A meaning one of whose checks 2 to 5 fails. -/
theorem exec_of_firstError_some {i : Instr} {s : State} {c : ErrCode}
    (h : firstError s.wmemWords i s.operands = some c) : exec i s = .next (s.completeError c) := by
  rw [exec_eq_checked, State.checked_of_some h]

/-- Everything a host write to CMD can do (R100, R254). -/
theorem State.issue_cases (s : State) (v : Word) :
    (s.run.isBusy = true ∧ s.issue v = s.setOvr) ∨
    (s.run = .idle ∧ isError s.err = true ∧ s.issue v = s.skip v) ∨
    (s.run = .idle ∧ isError s.err = false ∧ s.issue v = s.accept v) := by
  cases hr : s.run.isBusy
  · have hi := Run.isBusy_eq_false.1 hr
    cases he : isError s.err <;> simp [State.issue, hi, he]
  · simp [State.issue, hr]

/-- The engine's turn while Idle changes nothing (R237). -/
theorem engineTurn_idle {s : State} (h : s.run = .idle) : engineTurn s = .next s := by
  simp [engineTurn, h]

/-- The engine's turn while Busy with a command word that decodes. -/
theorem engineTurn_ok {s : State} {c : Word} {a : Args} {e : Word} {i : Instr} (h : s.run = .busy c a e)
    (hd : decode c = .ok i) : engineTurn s = exec i s := by
  simp [engineTurn, h, hd]

/-- The engine's turn while Busy with an illegal command word (R73). -/
theorem engineTurn_illegal {s : State} {c : Word} {a : Args} {e : Word} {r : DecodeReject} (h : s.run = .busy c a e)
    (hd : decode c = .error r) : engineTurn s = .next (s.completeError .illegalCommand) := by
  simp [engineTurn, h, hd]

/-- Everything a step can be: the engine's turn, a reset, or the next host transaction (R58). -/
theorem step_cases (s : State) :
    (s.inputs = [] ∧ step s = engineTurn s) ∨
    (∃ rest, s.inputs = .engine :: rest ∧ step s = engineTurn { s with inputs := rest }) ∨
    (∃ rest, s.inputs = .reset :: rest ∧ step s = .next (State.hardReset { s with inputs := rest })) ∨
    (∃ t rest, s.inputs = .host t :: rest ∧ step s = hostTransaction t { s with inputs := rest }) := by
  unfold step
  cases h : s.inputs with
  | nil => simp
  | cons i rest => cases i <;> simp

/-- A transaction of the interface has its effect (R51). -/
theorem hostTransaction_read {t : Txn} (h : t.wellFormed) (ho : t.op = .read) (s : State) :
    hostTransaction t s = .next (s.hostRead (targetOf s.wmemWords t.off)) := by
  simp [hostTransaction, h, ho]

theorem hostTransaction_write {t : Txn} (h : t.wellFormed) {v : Word} (ho : t.op = .write v) (s : State) :
    hostTransaction t s = .next ((s.hostWrite (targetOf s.wmemWords t.off) v).respond none) := by
  simp [hostTransaction, h, ho]

/-- A transaction that is not of the interface is refused (R51). -/
theorem hostTransaction_refused {t : Txn} (h : ¬t.wellFormed) (s : State) :
    hostTransaction t s = .refused .hostProtocolViolation := by
  simp [hostTransaction, h]

/-- A pending `RegWrite(off, v)` takes effect (R51, R58). -/
theorem step_regWrite {s : State} {off : Nat} {v : Word} {rest : List Input}
    (hi : s.inputs = .host (regWrite off v) :: rest) (h4 : off % 4 = 0) :
    step s = .next ((State.hostWrite { s with inputs := rest } (targetOf s.wmemWords off) v).respond none) := by
  simp only [step, hi]
  exact hostTransaction_write (t := regWrite off v) ⟨rfl, h4⟩ rfl _

/-- A pending `RegRead(off)` takes effect (R51, R58). -/
theorem step_regRead {s : State} {off : Nat} {rest : List Input} (hi : s.inputs = .host (regRead off) :: rest)
    (h4 : off % 4 = 0) :
    step s = .next (State.hostRead { s with inputs := rest } (targetOf s.wmemWords off)) := by
  simp only [step, hi]
  exact hostTransaction_read (t := regRead off) ⟨rfl, h4⟩ rfl _

/-- The aperture of R32 reaches every WMEM word. -/
theorem targetOf_aperture {ww w : Nat} (h : w < ww) : targetOf ww (0x10000 + 4 * w) = .wmem w := by
  unfold targetOf
  split <;> first | omega | skip
  rw [if_neg (by omega), if_pos (by omega)]
  congr
  omega

/-- The WMEM words that exist are those below WMEM_WORDS: the aperture of R32 names no other. -/
theorem targetOf_wmem {ww off w : Nat} (h : targetOf ww off = .wmem w) : w < ww := by
  unfold targetOf at h
  split at h <;> try cases h
  split at h
  · cases h
  · split at h
    · injection h
      omega
    · cases h

end Sys2Proof.Machine
end

