-- ==== Sys2Proof/Laws/Words.lean ====
section
/-! SUPPORT. Polynomials and their word images (00_scope.md R10): coefficient k is bit k mod 32 of word ⌊k/32⌋. -/

namespace Sys2Proof.Machine

@[simp] theorem polyOfWords_nil : polyOfWords [] = 0 := rfl

theorem polyOfWords_cons (w : Word) (ws : List Word) :
    polyOfWords (w :: ws) = 2 ^ 32 * polyOfWords ws + w.toNat := by
  simp [polyOfWords, Nat.add_comm]

/-- Coefficient k of a polynomial (R10). -/
theorem testBit_polyOfWords (ws : List Word) (k : Nat) :
    (polyOfWords ws).testBit k = (ws.getD (k / 32) 0#32).getLsbD (k % 32) := by
  induction ws generalizing k with
  | nil => simp
  | cons w ws ih =>
    rw [polyOfWords_cons, Nat.testBit_two_pow_mul_add _ w.isLt]
    split
    · have h1 : k / 32 = 0 := by omega
      have h2 : k % 32 = k := by omega
      simp [h1, h2, BitVec.getLsbD]
    · have h1 : k / 32 = (k - 32) / 32 + 1 := by omega
      have h2 : k % 32 = (k - 32) % 32 := by omega
      rw [ih, h1, h2]
      simp

/-- A polynomial of n words has degree below 32n (R10). -/
theorem polyOfWords_lt (ws : List Word) : polyOfWords ws < 2 ^ (32 * ws.length) := by
  induction ws with
  | nil => simp
  | cons w ws ih =>
    have hw := w.isLt
    rw [polyOfWords_cons, List.length_cons, Nat.mul_add, Nat.pow_add, Nat.mul_comm (2 ^ (32 * ws.length))]
    calc 2 ^ 32 * polyOfWords ws + w.toNat < 2 ^ 32 * polyOfWords ws + 2 ^ 32 := by omega
      _ = 2 ^ 32 * (polyOfWords ws + 1) := by ring
      _ ≤ 2 ^ 32 * 2 ^ (32 * ws.length) := Nat.mul_le_mul_left _ ih

@[simp] theorem length_wordsOf (n p : Nat) : (wordsOf n p).length = n := by simp [wordsOf]

@[simp] theorem getElem_wordsOf (n p k : Nat) (h : k < (wordsOf n p).length) :
    (wordsOf n p)[k] = BitVec.ofNat 32 (p >>> (32 * k)) := by
  simp [wordsOf]

/-- The words of a polynomial hold its coefficients (R10). -/
theorem getLsbD_wordsOf (n p k b : Nat) (h : k < n) (hb : b < 32) :
    ((wordsOf n p).getD k 0#32).getLsbD b = p.testBit (32 * k + b) := by
  rw [List.getD_eq_getElem _ _ (by simpa using h), getElem_wordsOf, BitVec.getLsbD_ofNat, Nat.testBit_shiftRight]
  simp [hb]

/-- A polynomial of degree below 32n is the polynomial of its n-word image (R10). -/
theorem polyOfWords_wordsOf {n p : Nat} (h : p < 2 ^ (32 * n)) : polyOfWords (wordsOf n p) = p := by
  apply Nat.eq_of_testBit_eq
  intro k
  rw [testBit_polyOfWords]
  by_cases hk : k / 32 < n
  · rw [getLsbD_wordsOf _ _ _ _ hk (Nat.mod_lt _ (by decide)), Nat.div_add_mod]
  · have h1 : p.testBit k = false := by
      apply Nat.testBit_lt_two_pow
      exact Nat.lt_of_lt_of_le h (Nat.pow_le_pow_right (by decide) (by omega))
    have h2 : (wordsOf n p).getD (k / 32) 0#32 = 0#32 := by
      rw [List.getD_eq_default]
      simp
      omega
    rw [h1, h2]
    simp

/-- A list of words is the image of its polynomial (R10). -/
theorem wordsOf_polyOfWords (ws : List Word) : wordsOf ws.length (polyOfWords ws) = ws := by
  apply List.ext_getElem (by simp)
  intro k h1 h2
  apply BitVec.eq_of_getLsbD_eq
  intro b hb
  have h := getLsbD_wordsOf ws.length (polyOfWords ws) k b (by simpa using h1) hb
  rw [testBit_polyOfWords] at h
  have e1 : (32 * k + b) / 32 = k := by omega
  have e2 : (32 * k + b) % 32 = b := by omega
  rw [e1, e2, List.getD_eq_getElem _ _ h1, List.getD_eq_getElem _ _ h2] at h
  exact h

/-- Coefficient k of the polynomial held in WMEM words a … a + n − 1 (R10). -/
theorem State.testBit_poly (s : State) (a n k : Nat) (h : k < 32 * n) :
    (s.poly a n).testBit k = (s.readWord (a + k / 32)).getLsbD (k % 32) := by
  have h1 : k / 32 < n := by omega
  rw [State.poly, testBit_polyOfWords, List.getD_eq_getElem _ _ (by simpa using h1)]
  simp

/-- The polynomial of n WMEM words has degree below 32n (R10). -/
theorem State.poly_lt (s : State) (a n : Nat) : s.poly a n < 2 ^ (32 * n) := by
  have := polyOfWords_lt (s.readWords a n)
  simpa [State.poly] using this

end Sys2Proof.Machine
end

