-- ==== Sys2Proof/Laws/Commands.lean ====
section
/-! SUPPORT. Everything a command's meaning can do, said once, and what a host read leaves alone. -/

namespace Sys2Proof.Machine

/-- Everything a meaning can do (R103 to R106): an error completion, or a success whose words all lie in the destination or
in-place region of the command (R57, R80). -/
theorem exec_cases (i : Instr) (s : State) :
    (∃ c, exec i s = .next (s.completeError c)) ∨
    ∃ start ws, exec i s = .next (s.completeOk start ws) ∧
      ∀ x, start ≤ x ∧ x < start + ws.length →
        ∃ d ∈ (footprint i s.operands).dest, d.start ≤ x ∧ x < d.start + d.len := by
  rw [exec_eq_checked]
  rcases State.checked_cases s i (resultOf i s) with ⟨c, _, h⟩ | ⟨_, h⟩
  · exact .inl ⟨c, by rw [h]⟩
  · rw [h]
    cases i <;>
      simp only [resultOf, State.pmulResult, State.pmuluResult, State.mmulResult, State.mpowResult,
        State.mtApplyResult] <;>
      (repeat' split) <;>
      first
      | exact .inl ⟨_, rfl⟩
      | (refine .inr ⟨_, _, rfl, fun x => ?_⟩
         simp [footprint, lowHigh, Mat3.words, Vec3.words, MrgState.words, mtWords, Args.dstAddr]
         try omega)

/-- What a host read leaves alone (R55): everything but the response and, for a WMEM read while Busy, HAZ and the count of
free values. -/
theorem State.hostRead_frame (s : State) (t : Target) :
    (s.hostRead t).cmd = s.cmd ∧ (s.hostRead t).err = s.err ∧ (s.hostRead t).param = s.param ∧
      (s.hostRead t).arg = s.arg ∧ (s.hostRead t).run = s.run ∧ (s.hostRead t).wmem = s.wmem ∧
      (s.hostRead t).inputs = s.inputs ∧ (s.hostRead t).status.done = s.status.done ∧
      (s.hostRead t).status.ovr = s.status.ovr ∧
      ((s.hostRead t).status.haz = s.status.haz ∨ s.run.isBusy = true ∧ ∃ w, t = .wmem w) := by
  cases t <;> simp only [State.hostRead] <;> (try split) <;> simp [State.respond, State.readWmemBusy, State.setHaz, *]

end Sys2Proof.Machine
end

