-- ==== Sys2Proof/Laws/PerInstr.lean ====
section
/-! SUPPORT. The family CommandWord: what the command word of each command looks like (30_encoding.md R70). -/

namespace Sys2Proof.Laws.CommandWord

/-- The command word of `i` has the fields of its row and they are legal. -/
def Statement (i : Instr) : Prop := fieldsOfWord (encode i) = i.fields ∧ i.wellFormed = true

theorem nop : Statement .nop := by unfold Statement; decide
theorem clmul32 : Statement .clmul32 := by unfold Statement; decide
theorem pmulGs : Statement .pmulGs := by unfold Statement; decide
theorem pmulKa : Statement .pmulKa := by unfold Statement; decide
theorem pmuluGs : Statement .pmuluGs := by unfold Statement; decide
theorem pmuluKa : Statement .pmuluKa := by unfold Statement; decide
theorem pmod : Statement .pmod := by unfold Statement; decide
theorem jpoly : Statement .jpoly := by unfold Statement; decide
theorem mmulM1 : Statement .mmulM1 := by unfold Statement; decide
theorem mmulM2 : Statement .mmulM2 := by unfold Statement; decide
theorem mpowM1 : Statement .mpowM1 := by unfold Statement; decide
theorem mpowM2 : Statement .mpowM2 := by unfold Statement; decide
theorem mrgApply : Statement .mrgApply := by unfold Statement; decide
theorem mrgJump : Statement .mrgJump := by unfold Statement; decide
theorem mtApply : Statement .mtApply := by unfold Statement; decide
theorem mtJump : Statement .mtJump := by unfold Statement; decide

end Sys2Proof.Laws.CommandWord
end

