-- ==== Sys2Proof/Laws/Registers.lean ====
section
/-! SUPPORT. The register map and STATUS said once: what each byte offset names (10_state.md R32, R33) and what each STATUS
bit reads as (R23). -/

namespace Sys2Proof.Machine

/-- The map of R32 as a chain of cases. -/
theorem targetOf_eq (ww off : Nat) : targetOf ww off =
    if off = 0x000 then .cmd else if off = 0x004 then .status else if off = 0x008 then .err
    else if off = 0x00C then .param else if off = 0x010 then .arg .dst else if off = 0x014 then .arg .srcA
    else if off = 0x018 then .arg .srcB else if off = 0x01C then .arg .len else if off = 0x020 then .arg .stepLo
    else if off = 0x024 then .arg .stepHi else if off < 0x10000 then .reserved
    else if off < 0x10000 + 4 * ww then .wmem ((off - 0x10000) / 4) else .unmapped := by
  unfold targetOf
  split <;> first | rfl | skip
  simp_all

/-- The reserved offsets of R33. -/
theorem targetOf_reserved {ww off : Nat} (h4 : off % 4 = 0) (h1 : 0x028 ≤ off) (h2 : off ≤ 0xFFFC) :
    targetOf ww off = .reserved := by
  rw [targetOf_eq]
  iterate 10 rw [if_neg (by omega)]
  rw [if_pos (by omega)]

/-- Above the aperture nothing is mapped (R33). -/
theorem targetOf_unmapped {ww off : Nat} (h : 0x10000 + 4 * ww ≤ off) : targetOf ww off = .unmapped := by
  rw [targetOf_eq]
  iterate 12 rw [if_neg (by omega)]

/-- The offset of a WMEM word (R27, R32). -/
theorem targetOf_eq_wmem {ww off w : Nat} (h4 : off % 4 = 0) :
    targetOf ww off = .wmem w ↔ w < ww ∧ off = 0x10000 + 4 * w := by
  constructor
  · intro h
    have hw := targetOf_wmem h
    refine ⟨hw, ?_⟩
    by_cases h1 : off < 0x10000
    · by_cases h2 : 0x028 ≤ off
      · rw [targetOf_reserved h4 h2 (by omega)] at h
        cases h
      · exfalso
        have h3 : off = 4 * (off / 4) := by omega
        rw [h3] at h
        have h5 : off / 4 < 10 := by omega
        generalize off / 4 = k at h h5
        have : k = 0 ∨ k = 1 ∨ k = 2 ∨ k = 3 ∨ k = 4 ∨ k = 5 ∨ k = 6 ∨ k = 7 ∨ k = 8 ∨ k = 9 := by omega
        rcases this with rfl | rfl | rfl | rfl | rfl | rfl | rfl | rfl | rfl | rfl <;> cases h
    · by_cases h6 : off < 0x10000 + 4 * ww
      · have h7 : off = 0x10000 + 4 * ((off - 0x10000) / 4) := by omega
        rw [h7, targetOf_aperture (by omega)] at h
        injection h with h
        omega
      · rw [targetOf_unmapped (by omega)] at h
        cases h
  · rintro ⟨h, rfl⟩
    exact targetOf_aperture h

/-- STATUS bit by bit (R23). -/
theorem getLsbD_statusWord (r : Run) (st : Status) (k : Nat) :
    (statusWord r st).getLsbD k =
      if k = 0 then r.isBusy else if k = 1 then st.done else if k = 2 then st.ovr
      else if k = 3 then st.haz else false := by
  unfold statusWord
  rw [BitVec.getLsbD_setWidth]
  by_cases hk : k < 4
  · have : k = 0 ∨ k = 1 ∨ k = 2 ∨ k = 3 := by omega
    rcases this with rfl | rfl | rfl | rfl <;>
      cases r.isBusy <;> cases st.done <;> cases st.ovr <;> cases st.haz <;> decide
  · rw [BitVec.getLsbD_of_ge _ _ (by omega), Bool.and_false, if_neg, if_neg, if_neg, if_neg] <;> omega
end Sys2Proof.Machine
end

