-- ==== Sys2Proof/Machine/HostProgram.lean ====
section
/-! DEFINITION. The host notation of 30_encoding.md R81 and R82 as lists of pending inputs. The host's own control flow
(how often `wait` polls, what `copy` read, where `brerr` goes) is the host's and "produces no PJE transaction of its
own" (R82): it comes in as an argument. -/

namespace Sys2Proof.Program

open Sys2Proof.Machine

/-- `wr NAME, v` at the offset of NAME (R81). -/
def wr (off : Nat) (v : Word) : List Input := [.host (regWrite off v)]

/-- `rd NAME` (R81). -/
def rd (off : Nat) : List Input := [.host (regRead off)]

/-- The byte offset of `W[a]` (R81, R32). -/
def wmemOffset (a : Nat) : Nat := 0x10000 + 4 * a

/-- `cmd MNEMONIC` (R81). -/
def cmd (i : Instr) : List Input := wr 0x000 (encode i)

/-- `wait` that polls STATUS `polls` times, the engine completing before the last poll (R82, R108). -/
def wait (polls : Nat) : List Input := (List.replicate polls (rd 0x004)).flatten ++ [.engine] ++ rd 0x004

/-- `wrstep s` (R82). -/
def wrstep (s : Nat) : List Input := wr 0x020 (BitVec.ofNat 32 (s % 2 ^ 32)) ++ wr 0x024 (BitVec.ofNat 32 (s / 2 ^ 32))

/-- `load a, [v0, v1, …]` (R82). -/
def load : Nat → List Word → List Input
  | _, [] => []
  | a, v :: vs => wr (wmemOffset a) v ++ load (a + 1) vs

/-- `FILL(v, k)` (R82). -/
def fill (v : Word) (k : Nat) : List Word := List.replicate k v

/-- An operand of `run` that is given, or nothing: "An operand not given in `run` keeps its previous ARG value" (R82). -/
def given (off : Nat) : Option Word → List Input
  | none => []
  | some v => wr off v

/-- `run MNEMONIC [dst=d] [a=x] [b=y] [n=z] [step=s]` (R82). -/
def run (i : Instr) (d x y z : Option Word) (s : Option Nat) (polls : Nat) : List Input :=
  given 0x010 d ++ given 0x014 x ++ given 0x018 y ++ given 0x01C z ++
    (match s with | none => [] | some s => wrstep s) ++ cmd i ++ wait polls

/-- `clrerr` (R82). -/
def clrerr : List Input := wr 0x008 0#32

/-- `chk` (R82). -/
def chk : List Input := rd 0x008

/-- `copy d, s, n`, where `vs` are the n values that the host reads (R82). -/
def copy : Nat → Nat → List Word → List Input
  | _, _, [] => []
  | d, s, v :: vs => rd (wmemOffset s) ++ wr (wmemOffset d) v ++ copy (d + 1) (s + 1) vs

/-- Whether `brerr` is taken, from the value that the last `chk` read (R82). -/
def brerrTaken (v : Word) : Bool := decide (v.toInt < 0)

end Sys2Proof.Program
end

