-- ==== Sys2Proof/Tests/Slice0.lean ====
section
/-! SUPPORT. The model's own tests: the checks of well-formedness, a written-out word for every command, one or two single
steps for each command with values from 95_test_vectors.md, and a witness for every statement that has hypotheses. -/

namespace Sys2Proof.Tests

open Sys2Proof Sys2Proof.Machine Sys2Proof.Statement

/-! ### Helpers -/

/-- Operand values, the step as one number. -/
def ops (d a b n s : Nat) : Args :=
  ⟨BitVec.ofNat 32 d, BitVec.ofNat 32 a, BitVec.ofNat 32 b, BitVec.ofNat 32 n, BitVec.ofNat 32 (s % 2 ^ 32),
   BitVec.ofNat 32 (s / 2 ^ 32)⟩

/-- 64-bit integers as pairs of words (R11). -/
def u64s (xs : List Nat) : List Word := xs.flatMap fun x => [BitVec.ofNat 32 x, BitVec.ofNat 32 (x >>> 32)]

/-- Words written from power-on on. -/
def filled (start : Nat) (ws : List Word) : Memory := Memory.writeList [] start ws

/-- A machine that has accepted the command word `c`. -/
def busyWith (c : Word) (o : Args) (m : Memory) : State :=
  { State.reset with cmd := c, arg := o, run := .busy c o 0#32, wmem := m }

/-- A machine that has accepted the command `i`. -/
def running (i : Instr) (o : Args) (m : Memory) : State := busyWith (encode i) o m

/-- The same machine with pending inputs. -/
def fed (s : State) (is : List Input) : State := { s with inputs := is }

/-- The outcome is a next state with the property `p`. -/
def goesTo (o : Host.Outcome State Fault Refusal) (p : State → Bool) : Bool :=
  match o with
  | .next t => p t
  | .fault _ => false
  | .refused _ => false

/-- The step writes `ws` at `a` and leaves ERR at 0. -/
def writes (s : State) (a : Nat) (ws : List Word) : Bool :=
  goesTo (step s) fun t => t.readWords a ws.length == ws && t.err == 0#32 && t.status.done

/-- The step leaves WMEM as it is and sets ERR to the given value. -/
def fails (s : State) (e : Int) : Bool :=
  goesTo (step s) fun t => t.wmem == s.wmem && t.err.toInt == e && t.status.done

/-! ### Well-formedness: an ill-formed term for each check (R73, R51) -/

theorem test_refuses_unknown_op : (⟨0x04#8, 0#2, 0#2, 0#1, 0#19⟩ : CmdFields).wellFormed = false := by decide
theorem test_refuses_alg_2 : (⟨0x02#8, 2#2, 0#2, 0#1, 0#19⟩ : CmdFields).wellFormed = false := by decide
theorem test_refuses_alg_on_pmod : (⟨0x08#8, 1#2, 0#2, 0#1, 0#19⟩ : CmdFields).wellFormed = false := by decide
theorem test_refuses_comp_on_jpoly : (⟨0x09#8, 0#2, 0#2, 1#1, 0#19⟩ : CmdFields).wellFormed = false := by decide
theorem test_refuses_reserved_10 : (⟨0x02#8, 0#2, 1#2, 0#1, 0#19⟩ : CmdFields).wellFormed = false := by decide
theorem test_refuses_reserved_31 : (⟨0x02#8, 0#2, 0#2, 0#1, 0x40000#19⟩ : CmdFields).wellFormed = false := by decide
theorem test_refuses_narrow : ¬(⟨.w8, 0, .read⟩ : Txn).wellFormed := by decide
theorem test_refuses_wide : ¬(⟨.w64, 0, .write 0#32⟩ : Txn).wellFormed := by decide
theorem test_refuses_unaligned : ¬(⟨.w32, 2, .read⟩ : Txn).wellFormed := by decide

/-! ### Decoding: every command's word, written out from R70 and R72 -/

theorem test_decode_nop : decode 0b00000000000000000000000000000000#32 = .ok .nop := by decide
theorem test_decode_clmul32 : decode 0b00000000000000000000000000000001#32 = .ok .clmul32 := by decide
theorem test_decode_pmulGs : decode 0b00000000000000000000000000000010#32 = .ok .pmulGs := by decide
theorem test_decode_pmulKa : decode 0b00000000000000000000000100000010#32 = .ok .pmulKa := by decide
theorem test_decode_pmuluGs : decode 0b00000000000000000000000000000011#32 = .ok .pmuluGs := by decide
theorem test_decode_pmuluKa : decode 0b00000000000000000000000100000011#32 = .ok .pmuluKa := by decide
theorem test_decode_pmod : decode 0b00000000000000000000000000001000#32 = .ok .pmod := by decide
theorem test_decode_jpoly : decode 0b00000000000000000000000000001001#32 = .ok .jpoly := by decide
theorem test_decode_mmulM1 : decode 0b00000000000000000000000000010000#32 = .ok .mmulM1 := by decide
theorem test_decode_mmulM2 : decode 0b00000000000000000001000000010000#32 = .ok .mmulM2 := by decide
theorem test_decode_mpowM1 : decode 0b00000000000000000000000000010001#32 = .ok .mpowM1 := by decide
theorem test_decode_mpowM2 : decode 0b00000000000000000001000000010001#32 = .ok .mpowM2 := by decide
theorem test_decode_mrgApply : decode 0b00000000000000000000000000010010#32 = .ok .mrgApply := by decide
theorem test_decode_mrgJump : decode 0b00000000000000000000000000010011#32 = .ok .mrgJump := by decide
theorem test_decode_mtApply : decode 0b00000000000000000000000000011000#32 = .ok .mtApply := by decide
theorem test_decode_mtJump : decode 0b00000000000000000000000000011001#32 = .ok .mtJump := by decide

theorem test_reject_op : decode 0x00000004#32 = .error .unknownOp := by decide
theorem test_reject_alg : decode 0x00000302#32 = .error .unknownAlg := by decide
theorem test_reject_alg_place : decode 0x00000108#32 = .error .algNotAllowed := by decide
theorem test_reject_comp_place : decode 0x00001009#32 = .error .compNotAllowed := by decide
theorem test_reject_reserved : decode 0x80000002#32 = .error .reservedBitSet := by decide
theorem test_table_word : decodeTableWord 32 0x1011 = some .mpowM2 := by decide
theorem test_table_word_none : decodeTableWord 32 0x1012 = none := by decide

/-! ### One step of each command (the values of 95_test_vectors.md; the vector is named in each) -/

/-- NOP after reset: no register but DONE changes (R112). -/
theorem test_nop : goesTo (step (State.reset.withFetchWord 32 0)) (fun t => t.err == 0#32 && t.status.done) = true := by
  decide

/-- V-CL6. -/
theorem test_clmul32 : writes (running .clmul32 (ops 2 0 1 0 0) (filled 0 [0x12345678#32, 0x9ABCDEF0#32])) 2
    [0x5CD25A80#32, 0x08860E94#32] = true := by decide +kernel
/-- V-CL10. -/
theorem test_clmul32_overlap : fails (running .clmul32 (ops 0 0 4 0 0) []) (-19) = true := by decide +kernel

/-- V-PM4, an odd length. -/
theorem test_pmulGs : writes (running .pmulGs (ops 10 0 3 3 0)
      (filled 0 [0x80000000#32, 0x80000000#32, 0x80000000#32, 3#32, 0#32, 1#32])) 10
    [0x80000000#32, 0x80000001#32, 0x00000001#32, 0x80000001#32, 0x80000000#32, 0#32] = true := by decide +kernel
/-- V-PM9: the length is checked before the range. -/
theorem test_pmulGs_length : fails (running .pmulGs (ops 0 0 0 0xFFFFFFFF 0) []) (-17) = true := by decide +kernel

/-- V-PM5. -/
theorem test_pmulKa : writes (running .pmulKa (ops 10 0 3 3 0)
      (filled 0 [0x12345678#32, 0x9ABCDEF0#32, 0x0F0F0F0F#32, 0x11111111#32, 0x22222222#32, 0x44444444#32])) 10
    [0x89B8C9F8#32, 0x93F11370#32, 0x2E256F66#32, 0x117391F2#32, 0x26E327E0#32, 0x03FC03FC#32] = true := by
  decide +kernel
/-- V-PM13: addresses do not wrap. -/
theorem test_pmulKa_address : fails (running .pmulKa (ops 0 0xFFFFFFFF 0 3 0) []) (-18) = true := by decide +kernel

/-- V-PU1. -/
theorem test_pmuluGs : writes (running .pmuluGs (ops 10 0 2 1 0) (filled 0 [0xDAC3F34C#32, 0x5B5D4273#32, 0xF9210FB3#32]))
    10 [0x58726A94#32, 0x59C74911#32, 0x372D0911#32] = true := by decide +kernel
/-- V-PU9: a destination that ends one word above WMEM. -/
theorem test_pmuluGs_address : fails (running .pmuluGs (ops 6321 0 0 624 0) []) (-18) = true := by decide +kernel

/-- V-PU7. -/
theorem test_pmuluKa : writes (running .pmuluKa (ops 10 0 2 1 0) (filled 0 [0#32, 0x80000000#32, 0x80000000#32])) 10
    [0#32, 0#32, 0x40000000#32] = true := by decide +kernel
/-- V-PU8. -/
theorem test_pmuluKa_length : fails (running .pmuluKa (ops 0 0 0 0 0) []) (-17) = true := by decide +kernel

/-- V-PD1: the remainder of t^19937 is the 134 low terms of φ. -/
theorem test_modPhi : modPhi (2 ^ 19937) = phi ^^^ 2 ^ 19937 ∧ modPhi (2 ^ 19937) % 2 ^ 32 = 1 := by decide +kernel
/-- The destination of PMOD may not meet its source (R110). -/
theorem test_pmod_overlap : fails (running .pmod (ops 1247 0 0 0 0) []) (-19) = true := by decide +kernel

/-- V-JP3. -/
theorem test_jpoly : writes (running .jpoly (ops 100 0 0 0 8) []) 100 [0x100#32, 0#32, 0#32, 0#32] = true := by
  decide +kernel
/-- V-JP14: the range is checked before the step. -/
theorem test_jpoly_order : fails (running .jpoly (ops 7569 0 0 0 (2 ^ 63)) []) (-18) = true := by decide +kernel

/-- V-MM1, with a = b. -/
theorem test_mmulM1 : writes (running .mmulM1 (ops 18 0 0 0 0) (filled 0 (u64s [1, 2, 3, 4, 5, 6, 7, 8, 9]))) 18
    (u64s [30, 36, 42, 66, 81, 96, 102, 126, 150]) = true := by decide +kernel
/-- V-MM8: a high word that is not 0. -/
theorem test_mmulM1_operand : fails (running .mmulM1 (ops 18 0 0 0 0) (filled 0 (u64s [2 ^ 32, 0, 0, 0, 0, 0, 0, 0, 0])))
    (-20) = true := by decide +kernel

/-- V-MM3. -/
theorem test_mmulM2 : writes (running .mmulM2 (ops 18 0 0 0 0) (filled 0 (u64s (List.replicate 9 4294944442)))) 18
    (u64s (List.replicate 9 3)) = true := by decide +kernel
/-- V-MM9: m₂ as an entry. -/
theorem test_mmulM2_operand : fails (running .mmulM2 (ops 18 0 0 0 0)
    (filled 0 (u64s [0, 0, 0, 0, 0, 0, 0, 0, 4294944443]))) (-20) = true := by decide +kernel

/-- V-MP5. -/
theorem test_mpowM1 : writes (running .mpowM1 (ops 0 0 0 0 2) []) 0
    (u64s [0, 0, 1, 4294156359, 1403580, 0, 0, 4294156359, 1403580]) = true := by decide +kernel
/-- V-MP11. -/
theorem test_mpowM1_step : fails (running .mpowM1 (ops 0 0 0 0 (2 ^ 63)) []) (-3) = true := by decide +kernel

/-- V-MP4. -/
theorem test_mpowM2 : writes (running .mpowM2 (ops 0 0 0 0 1) []) 0
    (u64s [0, 1, 0, 0, 0, 1, 4293573854, 0, 527612]) = true := by decide +kernel
/-- V-MP10: the largest step. -/
theorem test_mpowM2_largest : writes (running .mpowM2 (ops 0 0 0 0 (2 ^ 63 - 1)) []) 0
    (u64s [4179629947, 4056044708, 973388334, 1774298149, 4179629947, 3145006948, 1688753503, 1774298149, 94869516])
    = true := by decide +kernel

/-- V-RA4: the state at 0, A₁ at 12, A₂ at 30. -/
theorem test_mrgApply : writes (running .mrgApply (ops 0 12 30 0 0) (filled 0 (u64s
      [0, 0, 1, 0, 0, 1, 0, 1, 0, 0, 0, 1, 4294156359, 1403580, 0, 0, 1, 0, 0, 0, 1, 4293573854, 0, 527612]))) 0
    (u64s [0, 1, 0, 0, 1, 527612]) = true := by decide +kernel
/-- V-RA7: s₂₀ = m₂, which component 1 would allow. -/
theorem test_mrgApply_operand : fails (running .mrgApply (ops 0 12 12 0 0) (filled 0 (u64s
      [0, 0, 1, 4294944443, 0, 1, 0, 1, 0, 0, 0, 1, 1, 1, 0]))) (-20) = true := by decide +kernel

/-- V-RJ6. -/
theorem test_mrgJump : writes (running .mrgJump (ops 0 0 0 0 3) (filled 0 (u64s [0, 0, 1, 0, 0, 1]))) 0
    (u64s [0, 1403580, 4294156359, 527612, 3497978192, 3281754271]) = true := by decide +kernel
/-- V-RJ8 and V-RJ9: an illegal state is not looked at for step 0. -/
theorem test_mrgJump_zero : fails (running .mrgJump (ops 0 0 0 0 0) (filled 0 (u64s [0, 0, 4294967087, 0, 0, 1]))) 0 = true
    ∧ fails (running .mrgJump (ops 0 0 0 0 1) (filled 0 (u64s [0, 0, 4294967087, 0, 0, 1]))) (-20) = true := by
  decide +kernel

/-- V-MA8. -/
theorem test_mtApply_cursor : fails (running .mtApply (ops 0 1000 0 0 0) [(624, 0xFFFFFFFF#32)]) (-20) = true := by
  decide +kernel
/-- V-MA11: the polynomial may not begin at the cursor word. -/
theorem test_mtApply_overlap : fails (running .mtApply (ops 0 624 0 0 0) []) (-19) = true := by decide +kernel

/-- V-MJ13 and V-MJ14: the cursor 625 is not looked at for step 0. -/
theorem test_mtJump_cursor : fails (running .mtJump (ops 0 0 0 0 0) [(624, 625#32)]) 0 = true ∧
    fails (running .mtJump (ops 0 0 0 0 1) [(624, 625#32)]) (-20) = true := by decide +kernel

/-- V-MA1: mt[1] of MtSeed(1). -/
theorem test_mtSeed : mtGet (mtSeedStep (mtSet (Vector.replicate 624 0#32) 0 1#32) 1) 1 = 0x6C078966#32 := by decide +kernel
/-- Scenario S1: the first output of MtSeed(1), tempered. -/
theorem test_temper : temper 2629073562#32 = 1791095845#32 := by decide
/-- V-RA2: one step of MrgSeed(1). -/
theorem test_mrgStep : mrgStep (mrgSeed 1) = ⟨⟨475628535, 3277404108, 2917510800⟩, ⟨3877832058, 3821835443, 3209808774⟩⟩ := by
  decide +kernel

/-! ### The host's transactions -/

/-- V-H11. -/
theorem test_status_write : goesTo (step { State.reset with
      status := ⟨true, true, true⟩, inputs := [.host (regWrite 0x004 0x4#32)] })
    (fun t => statusWord t.run t.status == 0xA#32) = true := by decide
/-- V-H6. -/
theorem test_overrun : goesTo (step (fed (running .jpoly (ops 0 0 0 0 0) []) [.host (regWrite 0x000 0#32)]))
    (fun t => statusWord t.run t.status == 0x5#32 && t.cmd == 0x9#32) = true := by decide
/-- V-H15. -/
theorem test_reset_while_busy : goesTo (step (fed (running .jpoly (ops 2 0 0 0 0) [(1, 7#32), (626, 8#32)]) [.reset]))
    (fun t => t.readWord 1 == 7#32 && t.readWord 626 == 8#32 && t.run == .idle && !t.status.done) = true := by
  decide +kernel
/-- A `run` of R82 with a `wait`: CLMUL32 V-CL3 from reset, the words loaded first. -/
theorem test_program : goesTo (Host.Core.run core 9 (fed State.reset
      (Program.load 0 [3#32, 3#32] ++ Program.run .clmul32 (some 2#32) (some 0#32) (some 1#32) none none 1)))
    (fun t => t.readWords 2 2 == [5#32, 0#32] && t.response == some 0x2#32) = true := by decide +kernel

/-! ### Witnesses: the hypotheses of each statement can be met

A theorem `witness_X` is for the statement `Obligations.X`; further clauses of the same statement have a suffix. -/

/-- A running machine is sound when its WMEM is. -/
theorem busyWith_inv (c : Word) (o : Args) (m : Memory) (h1 : Memory.wf m) (h2 : ∀ p ∈ m, p.1 < 8192) :
    (busyWith c o m).Inv := by
  have h3 : 4096 ≤ State.reset.wmemWords ∧ State.reset.wmemWords ≤ 65536 := by decide
  have h4 : isError 0#32 = false := by decide
  exact ⟨h1, h2, h3, rfl, rfl, rfl, h4, rfl⟩

/-- A machine that runs NOP, and one that runs an illegal word. -/
def busyNop : State := running .nop (ops 1 2 3 4 5) [(7, 9#32)]
def busyIllegal : State := busyWith 0x80000000#32 (ops 1 2 3 4 5) []

theorem busyNop_inv : busyNop.Inv := busyWith_inv _ _ _ (by decide) (by decide)

theorem witness_DecodeIsExactMatch : (∃ w i, decode w = .ok i ∧ w ≠ 0#32) ∧ ∃ w : Word, ∀ i, decode w ≠ .ok i :=
  ⟨⟨0x19#32, .mtJump, by decide, by decide⟩, 0x4#32, by intro i; cases i <;> decide⟩

theorem witness_LegalFieldsAreTableWords :
    decode 0x000000FF#32 = .error .unknownOp ∧ decode 0x00000200#32 = .error .unknownAlg ∧
      decode 0x00000110#32 = .error .algNotAllowed ∧ decode 0x00001012#32 = .error .compNotAllowed ∧
      decode 0x00000400#32 = .error .reservedBitSet := by decide

theorem witness_IllegalWordRaisesIllegalCommand :
    busyIllegal.run = .busy 0x80000000#32 (ops 1 2 3 4 5) 0#32 ∧ (∀ i, 0x80000000#32 ≠ encode i) ∧
      busyIllegal.inputs = [] ∧ (fed busyIllegal [.engine, .reset]).inputs = .engine :: [.reset] :=
  ⟨rfl, by intro i; cases i <;> decide, rfl, rfl⟩

theorem witness_EngineTurnRunsDecodedCommand :
    busyNop.run = .busy 0#32 (ops 1 2 3 4 5) 0#32 ∧ decode 0#32 = .ok .nop ∧ Instr.nop.wellFormed = true ∧
      busyNop.inputs = [] ∧ (fed busyNop [.engine]).inputs = .engine :: [] := ⟨rfl, by decide, by decide, rfl, rfl⟩

theorem witness_AcceptedCommandCompletes :
    (fed busyIllegal [.engine]).run = .busy 0x80000000#32 (ops 1 2 3 4 5) 0#32 ∧
      ∃ rest, (fed busyIllegal [.engine]).inputs = .engine :: rest := ⟨rfl, _, rfl⟩

/-- Two states that agree on the two source words of CLMUL32 and nowhere else. -/
theorem witness_OutcomeDependsOnlyOnOperands :
    let s := running .clmul32 (ops 2 0 1 0 0) [(0, 3#32), (1, 5#32), (9, 1#32)]
    let u := { running .clmul32 (ops 2 0 1 0 0) [(0, 3#32), (1, 5#32), (9, 2#32)] with err := 7#32 }
    s.operands = u.operands ∧ s.param = u.param ∧ s.readWord 9 ≠ u.readWord 9 ∧
      ∀ r ∈ readRegions .clmul32 s.operands, ∀ a, InRegion r a → s.readWord a = u.readWord a := by
  refine ⟨rfl, rfl, by decide, ?_⟩
  intro r hr a ha
  have h2 : r = ⟨0, 1⟩ ∨ r = ⟨1, 1⟩ := by
    rcases List.mem_cons.1 hr with h | h
    · exact .inl h
    · rcases List.mem_cons.1 h with h | h
      · exact .inr h
      · cases h
  have h3 : a = 0 ∨ a = 1 := by
    rcases h2 with rfl | rfl <;> simp only [InRegion] at ha <;> omega
  rcases h3 with rfl | rfl <;> decide

theorem witness_MalformedTransactionsAreTheOnlyRefusals :
    step (fed State.reset [.host ⟨.w8, 0, .read⟩]) = .refused .hostProtocolViolation ∧
      step (fed State.reset [.host ⟨.w32, 2, .write 0#32⟩]) = .refused .hostProtocolViolation := by
  constructor <;> rfl

theorem witness_CommandWriteWhileBusySetsOverrun :
    busyNop.run = .busy 0#32 (ops 1 2 3 4 5) 0#32 ∧ (fed busyNop [.host (regRead 0x000)]).Inv ∧
      (fed busyNop [.host (regWrite 0x000 9#32)]).inputs = .host (regWrite 0x000 9#32) :: [] ∧
      (fed busyNop [.host (regRead 0x000)]).inputs = .host (regRead 0x000) :: [] :=
  ⟨rfl, ⟨busyNop_inv.1, busyNop_inv.2, busyNop_inv.3, busyNop_inv.4⟩, rfl, rfl⟩

/-- An idle machine with a value in ERR and pending inputs. -/
def idleErr (e : Word) (is : List Input) : State := { State.reset with err := e, inputs := is }

theorem witness_NegativeErrSkipsTheCommand :
    (idleErr 0#32 []).run = .idle ∧ (0x80000000#32).toInt < 0 ∧ (0xFFFFFFFF#32).toInt < 0 ∧
      (idleErr 0x80000000#32 []).err = 0x80000000#32 ∧
      (idleErr 0x80000000#32 [.host (regWrite 0x000 2#32)]).inputs = .host (regWrite 0x000 2#32) :: [] :=
  ⟨rfl, by decide, by decide, rfl, rfl⟩

theorem witness_NonNegativeErrAcceptsTheCommand :
    (idleErr 0#32 []).run = .idle ∧ 0 ≤ (0x00000000#32).toInt ∧ 0 ≤ (0x7FFFFFFF#32).toInt ∧
      (idleErr 0x7FFFFFFF#32 []).err = 0x7FFFFFFF#32 ∧
      (idleErr 0x7FFFFFFF#32 [.host (regWrite 0x000 2#32)]).inputs = .host (regWrite 0x000 2#32) :: [] :=
  ⟨rfl, by decide, by decide, rfl, rfl⟩

theorem witness_RegisterAccessWhileBusy :
    busyNop.run = .busy 0#32 (ops 1 2 3 4 5) 0#32 ∧ busyNop.Inv ∧
      (∀ t ∈ [regWrite 0x008 1#32, regWrite (argOffset .dst) 1#32, regWrite (argOffset .stepHi) 1#32, regRead 0x008,
          regRead (argOffset .dst), regRead (argOffset .stepHi)],
        (fed busyNop [.host t]).inputs = .host t :: []) := ⟨rfl, busyNop_inv, fun _ _ => rfl⟩

theorem witness_WmemAccessWhileBusy :
    busyNop.run = .busy 0#32 (ops 1 2 3 4 5) 0#32 ∧ 0 < busyNop.wmemWords ∧ 8191 < busyNop.wmemWords ∧
      (∀ t ∈ [regWrite (0x10000 + 4 * 0) 1#32, regWrite (0x10000 + 4 * 8191) 1#32, regRead (0x10000 + 4 * 0),
          regRead (0x10000 + 4 * 8191)], (fed busyNop [.host t]).inputs = .host t :: []) :=
  ⟨rfl, by decide, by decide, fun _ _ => rfl⟩

theorem witness_StatusRegisterBits :
    (fed busyNop [.host (regRead 0x004)]).inputs = .host (regRead 0x004) :: [] ∧ busyNop.Inv ∧
      (idleErr 0#32 [.host (regWrite 0x004 0xC#32)]).inputs = .host (regWrite 0x004 0xC#32) :: [] :=
  ⟨rfl, busyNop_inv, rfl⟩

theorem witness_ReservedOffsetsReadZero :
    ∀ off ∈ [0x028, 0xFFFC, 0x10000 + 4 * 8192],
      off % 4 = 0 ∧ ((0x028 ≤ off ∧ off ≤ 0xFFFC) ∨ 0x10000 + 4 * State.reset.wmemWords ≤ off) ∧
        (fed State.reset [.host (regRead off)]).inputs = .host (regRead off) :: [] ∧
        (fed busyNop [.host (regWrite off 1#32)]).inputs = .host (regWrite off 1#32) :: [] := by
  intro off h
  refine ⟨?_, ?_, rfl, rfl⟩ <;> revert off <;> decide

theorem witness_ParamReadsWmemWords :
    (fed busyNop [.host (regRead 0x00C)]).inputs = .host (regRead 0x00C) :: [] ∧
      (fed busyNop [.host (regWrite 0x00C 5#32)]).inputs = .host (regWrite 0x00C 5#32) :: [] := ⟨rfl, rfl⟩

theorem witness_IdleWritesReadBack :
    State.reset.run = .idle ∧ 0 < State.reset.wmemWords ∧ 8191 < State.reset.wmemWords ∧
      ∀ off ∈ [argOffset .dst, argOffset .stepHi, 0x008, 0x10000 + 4 * 0, 0x10000 + 4 * 8191],
        (fed State.reset [.host (regWrite off 1#32), .host (regRead off)]).inputs =
          .host (regWrite off 1#32) :: .host (regRead off) :: [] := ⟨rfl, by decide, by decide, fun _ _ => rfl⟩

/-- CMD, ERR, the first and last ARG and WMEM offsets read while Idle, and a step of each kind that changes CMD. -/
theorem witness_IdleReadsReturnTheValues :
    State.reset.run = .idle ∧ 0 < State.reset.wmemWords ∧ 8191 < State.reset.wmemWords ∧
      (∀ t ∈ [regRead 0x000, regRead 0x008, regRead (argOffset .dst), regRead (argOffset .stepHi),
          regRead (0x10000 + 4 * 0), regRead (0x10000 + 4 * 8191), regWrite 0x000 9#32],
        (fed State.reset [.host t]).inputs = .host t :: []) ∧
      goesTo (step (fed State.reset [.host (regWrite 0x000 9#32)])) (fun t => t.cmd != State.reset.cmd) = true ∧
      goesTo (step (fed busyIllegal [.reset])) (fun t => t.cmd != busyIllegal.cmd) = true :=
  ⟨rfl, by decide, by decide, fun _ _ => rfl, by decide, by decide⟩

theorem witness_ResetSetsTheRegisters : (fed busyNop [.reset]).inputs = .reset :: [] := rfl

/-- Idle, running an illegal word, running NOP, and running JPOLY at the words just outside its region. -/
theorem witness_ResetLosesOnlyTheRunningRegion :
    (fed State.reset [.reset]).inputs = .reset :: [] ∧ State.reset.run = .idle ∧
      (∀ s ∈ [fed busyIllegal [.reset], fed busyNop [.reset], fed (running .jpoly (ops 2 0 0 0 0) []) [.reset]],
        s.inputs = .reset :: [] ∧ goesTo (step s) fun _ => true) ∧
      ∀ x ∈ [1, 626], ∀ i d, decode (encode .jpoly) = .ok i → (footprint i (ops 2 0 0 0 0)).dest = some d →
        ¬InRegion d x := by
  refine ⟨rfl, rfl, ?_, ?_⟩
  · intro s h
    simp only [List.mem_cons, List.not_mem_nil, or_false] at h
    rcases h with rfl | rfl | rfl <;> exact ⟨rfl, rfl⟩
  · intro x hx i d hi hd
    have h1 : i = .jpoly := by
      have h2 : decode (encode .jpoly) = .ok .jpoly := by decide
      rw [h2] at hi
      injection hi with hi
      exact hi.symm
    subst h1
    simp only [footprint, Option.some.injEq] at hd
    subst hd
    simp only [List.mem_cons, List.not_mem_nil, or_false] at hx
    have h3 : (ops 2 0 0 0 0).dstAddr = 2 := rfl
    simp only [InRegion, h3]
    omega

theorem witness_EveryStepKeepsTheInvariant : busyNop.Inv ∧ goesTo (step busyNop) (fun _ => true) = true :=
  ⟨busyNop_inv, by decide⟩

/-- An acceptance, a completion and a reset each change RUN. -/
theorem witness_RunChangesOnlyAsStated :
    goesTo (step (idleErr 0#32 [.host (regWrite 0x000 0#32)])) (fun t => t.run != .idle) = true ∧
      goesTo (step busyNop) (fun t => t.run != busyNop.run) = true ∧
      goesTo (step (fed busyNop [.reset])) (fun t => t.run != busyNop.run) = true := by decide

/-- A host write changes ARG and ERR while Idle, a completion changes ERR, a reset changes both. -/
theorem witness_ArgErrAndParamChangeOnlyAsStated :
    goesTo (step (idleErr 0#32 [.host (regWrite 0x024 1#32)])) (fun t => t.arg != State.reset.arg) = true ∧
      goesTo (step (idleErr 0#32 [.host (regWrite 0x008 1#32)])) (fun t => t.err != 0#32) = true ∧
      goesTo (step busyIllegal) (fun t => t.err != busyIllegal.err) = true ∧
      goesTo (step (fed busyNop [.reset])) (fun t => t.arg != busyNop.arg) = true ∧
      goesTo (step (idleErr 1#32 [.reset])) (fun t => t.err != 1#32) = true := by decide

theorem witness_OvrAndHazOnlyByMisuse :
    goesTo (step (fed busyNop [.host (regWrite 0x000 0#32)])) (fun t => t.status.ovr) = true ∧
      (∀ x ∈ [regWrite 0x008 0#32, regWrite 0x024 0#32, regWrite 0x10000 0#32, regRead (0x10000 + 4 * 8191)],
        goesTo (step (fed busyNop [.host x])) (fun t => t.status.haz) = true) := by decide

/-- A host write while Idle, a completion and a reset each change a WMEM word. The reset leaves a free value, so it is not
evaluated here; `test_reset_while_busy` shows such a step. -/
theorem witness_WmemChangesOnlyAsStated :
    goesTo (step { State.reset with wmem := [(7, 9#32)], inputs := [.host (regWrite (0x10000 + 4 * 7) 1#32)] })
      (fun t => t.readWord 7 != 9#32) = true ∧
      goesTo (step (running .mpowM1 (ops 0 0 0 0 0) [(0, 9#32)])) (fun t => t.readWord 0 != 9#32) = true := by
  decide +kernel

theorem witness_ErrorChainLeavesStateAlone :
    let s := idleErr 0xFFFFFFFF#32 [.host (regWrite 0x000 2#32), .engine, .host (regWrite 0x000 0x19#32)]
    s.run = .idle ∧ s.err.toInt < 0 ∧ (∀ x ∈ s.inputs, x = .engine ∨ ∃ v, x = .host (regWrite 0x000 v)) ∧
      goesTo (Host.Core.run core 3 s) (fun t => t.cmd == 0x19#32) = true := by
  refine ⟨rfl, by decide, ?_, by decide⟩
  intro x hx
  have h : x = .host (regWrite 0x000 2#32) ∨ x = .engine ∨ x = .host (regWrite 0x000 0x19#32) := by simpa [idleErr] using hx
  rcases h with rfl | rfl | rfl
  · exact .inr ⟨_, rfl⟩
  · exact .inl rfl
  · exact .inr ⟨_, rfl⟩

/-! The three clauses of `RegionRule`: a region out of range, an overlap, and neither. -/

def OutOfRange (s : State) (sources : List Region) (d : Region) : Prop := ∃ r ∈ d :: sources, ¬Fits s r
def Overlapping (s : State) (sources : List Region) (d : Region) : Prop :=
  (∀ r ∈ d :: sources, Fits s r) ∧ ∃ r ∈ sources, ¬Apart d r
def Clear (s : State) (sources : List Region) (d : Region) : Prop :=
  (∀ r ∈ d :: sources, Fits s r) ∧ ∀ r ∈ sources, Apart d r

/-- The regions of R80 for given sources' and destination's lengths, at the addresses in the operands. -/
def srcsAB (s : State) (la lb : Nat) : List Region := [⟨s.operands.srcA.toNat, la⟩, ⟨s.operands.srcB.toNat, lb⟩]
def srcA (s : State) (la : Nat) : List Region := [⟨s.operands.srcA.toNat, la⟩]
def dst (s : State) (ld : Nat) : Region := ⟨s.operands.dst.toNat, ld⟩

/-- A machine that runs `i` with the given operands on empty WMEM. -/
def at' (i : Instr) (d a b n s : Nat) : State := running i (ops d a b n s) []

theorem witness_Clmul32Meaning :
    (let s := at' .clmul32 8191 0 0 0 0; OutOfRange s (srcsAB s 1 1) (dst s 2)) ∧
      (let s := at' .clmul32 0 1 4 0 0; Overlapping s (srcsAB s 1 1) (dst s 2)) ∧
      (let s := at' .clmul32 8190 8189 8189 0 0; Clear s (srcsAB s 1 1) (dst s 2)) := by
  unfold OutOfRange Overlapping Clear Fits Apart
  decide

theorem witness_PmulMeaning :
    (at' .pmulGs 0 0 0 0 0).operands.len.toNat = 0 ∧ 624 < (at' .pmulKa 0 0 0 625 0).operands.len.toNat ∧
      (let s := at' .pmulGs 6945 0 0 624 0; OutOfRange s (srcsAB s 624 624) (dst s 1248)) ∧
      (let s := at' .pmulKa 1 0 4 2 0; Overlapping s (srcsAB s 2 2) (dst s 4)) ∧
      (let s := at' .pmulKa 4 0 2 2 0; Clear s (srcsAB s 2 2) (dst s 4)) ∧
      (let s := at' .pmulGs 6944 0 0 624 0; Clear s (srcsAB s 624 624) (dst s 1248)) ∧
      (let s := at' .pmulGs 8190 0 0 1 0; Clear s (srcsAB s 1 1) (dst s 2)) := by
  unfold OutOfRange Overlapping Clear Fits Apart
  decide

theorem witness_PmuluMeaning :
    (at' .pmuluGs 0 0 0 0 0).operands.len.toNat = 0 ∧ 624 < (at' .pmuluKa 0 0 0 625 0).operands.len.toNat ∧
      (let s := at' .pmuluGs 6321 0 0 624 0; OutOfRange s (srcsAB s 1248 624) (dst s 1872)) ∧
      (let s := at' .pmuluKa 0 3 2 1 0; Overlapping s (srcsAB s 2 1) (dst s 3)) ∧
      (let s := at' .pmuluKa 0 3 5 1 0; Clear s (srcsAB s 2 1) (dst s 3)) ∧
      (let s := at' .pmuluGs 6320 0 0 624 0; Clear s (srcsAB s 1248 624) (dst s 1872)) := by
  unfold OutOfRange Overlapping Clear Fits Apart
  decide

theorem witness_PmodMeaning :
    (let s := at' .pmod 0 6945 0 0 0; OutOfRange s (srcA s 1248) (dst s 624)) ∧
      (let s := at' .pmod 1247 0 0 0 0; Overlapping s (srcA s 1248) (dst s 624)) ∧
      (let s := at' .pmod 1248 0 0 0 0; Clear s (srcA s 1248) (dst s 624)) := by
  unfold OutOfRange Overlapping Clear Fits Apart
  decide

theorem witness_JpolyMeaning :
    (let s := at' .jpoly 7569 0 0 0 0; OutOfRange s [] (dst s 624)) ∧
      (let s := at' .jpoly 7568 0 0 0 (2 ^ 63); Clear s [] (dst s 624) ∧ 2 ^ 63 - 1 < s.operands.step) ∧
      (let s := at' .jpoly 7568 0 0 0 (2 ^ 63 - 1); Clear s [] (dst s 624) ∧ s.operands.step ≤ 2 ^ 63 - 1) ∧
      (let s := at' .jpoly 0 0 0 0 0; Clear s [] (dst s 624) ∧ s.operands.step = 0) := by
  unfold OutOfRange Clear Fits Apart
  decide

theorem witness_MpowMeaning :
    (let s := at' .mpowM1 8175 0 0 0 0; OutOfRange s [] (dst s 18)) ∧
      (let s := at' .mpowM2 8174 0 0 0 (2 ^ 63); Clear s [] (dst s 18) ∧ 2 ^ 63 - 1 < s.operands.step) ∧
      (let s := at' .mpowM1 8174 0 0 0 (2 ^ 63 - 1); Clear s [] (dst s 18) ∧ s.operands.step ≤ 2 ^ 63 - 1) ∧
      (let s := at' .mpowM2 0 0 0 0 0; Clear s [] (dst s 18) ∧ s.operands.step = 0) := by
  unfold OutOfRange Clear Fits Apart
  decide

/-- The largest legal entries, and the smallest illegal one in the last place. -/
theorem witness_MmulMeaning :
    (let s := at' .mmulM1 8175 0 0 0 0; OutOfRange s (srcsAB s 18 18) (dst s 18)) ∧
      (let s := at' .mmulM2 17 0 0 0 0; Overlapping s (srcsAB s 18 18) (dst s 18)) ∧
      (let s := running .mmulM1 (ops 18 0 0 0 0) (filled 0 (u64s (List.replicate 9 4294967086)))
       Clear s (srcsAB s 18 18) (dst s 18) ∧ ∀ e < 9, s.u64 (0 + 2 * e) < 4294967087) ∧
      (let s := running .mmulM2 (ops 18 0 0 0 0) (filled 0 (u64s (List.replicate 8 0 ++ [4294944443])))
       Clear s (srcsAB s 18 18) (dst s 18) ∧ ¬∀ e < 9, s.u64 (0 + 2 * e) < 4294944443) := by
  unfold OutOfRange Overlapping Clear Fits Apart
  decide +kernel

theorem witness_MrgApplyMeaning :
    (let s := at' .mrgApply 8181 0 0 0 0; OutOfRange s (srcsAB s 18 18) (dst s 12)) ∧
      (let s := at' .mrgApply 0 11 40 0 0; Overlapping s (srcsAB s 18 18) (dst s 12)) ∧
      (let s := running .mrgApply (ops 0 12 12 0 0) (filled 0 (u64s ([4294967086, 0, 0, 4294944442, 0, 0] ++
          List.replicate 9 4294944442)))
       Clear s (srcsAB s 18 18) (dst s 12) ∧
         (∀ e < 3, s.u64 (0 + 2 * e) < 4294967087 ∧ s.u64 (0 + 2 * (3 + e)) < 4294944443) ∧
         ∀ e < 9, s.u64 (12 + 2 * e) < 4294967087 ∧ s.u64 (12 + 2 * e) < 4294944443) ∧
      (let s := running .mrgApply (ops 0 12 12 0 0) (filled 0 (u64s ([0, 0, 0, 0, 0, 0] ++
          List.replicate 9 4294944443)))
       Clear s (srcsAB s 18 18) (dst s 12) ∧
         ¬∀ e < 9, s.u64 (12 + 2 * e) < 4294967087 ∧ s.u64 (12 + 2 * e) < 4294944443) := by
  unfold OutOfRange Overlapping Clear Fits Apart
  decide +kernel

theorem witness_MrgJumpMeaning :
    (let s := at' .mrgJump 8181 0 0 0 0; OutOfRange s [] (dst s 12)) ∧
      (let s := at' .mrgJump 8180 0 0 0 (2 ^ 63); Clear s [] (dst s 12) ∧ 2 ^ 63 - 1 < s.operands.step) ∧
      (let s := at' .mrgJump 0 0 0 0 0; Clear s [] (dst s 12) ∧ s.operands.step = 0) ∧
      (let s := running .mrgJump (ops 0 0 0 0 (2 ^ 63 - 1)) (filled 0 (u64s [4294967086, 0, 0, 0, 0, 4294944442]))
       Clear s [] (dst s 12) ∧ s.operands.step ≤ 2 ^ 63 - 1 ∧ s.operands.step ≠ 0 ∧
         ∀ e < 3, s.u64 (0 + 2 * e) < 4294967087 ∧ s.u64 (0 + 2 * (3 + e)) < 4294944443) ∧
      (let s := running .mrgJump (ops 0 0 0 0 1) (filled 0 (u64s [0, 0, 0, 0, 0, 4294944443]))
       Clear s [] (dst s 12) ∧ s.operands.step ≠ 0 ∧
         ¬∀ e < 3, s.u64 (0 + 2 * e) < 4294967087 ∧ s.u64 (0 + 2 * (3 + e)) < 4294944443) := by
  unfold OutOfRange Clear Fits Apart
  decide +kernel

theorem witness_MtApplyMeaning :
    (let s := at' .mtApply 7568 0 0 0 0; OutOfRange s (srcA s 624) (dst s 625)) ∧
      (let s := at' .mtApply 0 624 0 0 0; Overlapping s (srcA s 624) (dst s 625)) ∧
      (let s := running .mtApply (ops 0 625 0 0 0) [(624, 624#32)]
       Clear s (srcA s 624) (dst s 625) ∧ (s.readWord (0 + 624)).toNat ≤ 624) ∧
      (let s := running .mtApply (ops 0 625 0 0 0) [(624, 625#32)]
       Clear s (srcA s 624) (dst s 625) ∧ ¬(s.readWord (0 + 624)).toNat ≤ 624) := by
  unfold OutOfRange Overlapping Clear Fits Apart
  decide +kernel

theorem witness_MtJumpMeaning :
    (let s := at' .mtJump 7568 0 0 0 0; OutOfRange s [] (dst s 625)) ∧
      (let s := at' .mtJump 7567 0 0 0 (2 ^ 63); Clear s [] (dst s 625) ∧ 2 ^ 63 - 1 < s.operands.step) ∧
      (let s := at' .mtJump 0 0 0 0 0; Clear s [] (dst s 625) ∧ s.operands.step = 0) ∧
      (let s := running .mtJump (ops 0 0 0 0 (2 ^ 63 - 1)) [(624, 624#32)]
       Clear s [] (dst s 625) ∧ s.operands.step ≤ 2 ^ 63 - 1 ∧ s.operands.step ≠ 0 ∧
         (s.readWord (0 + 624)).toNat ≤ 624) ∧
      (let s := running .mtJump (ops 0 0 0 0 1) [(624, 625#32)]
       Clear s [] (dst s 625) ∧ s.operands.step ≠ 0 ∧ ¬(s.readWord (0 + 624)).toNat ≤ 624) := by
  unfold OutOfRange Clear Fits Apart
  decide +kernel

/-! The statements about the arithmetic. -/

theorem witness_GradeSchoolComputesTheProduct : [1#32, 2#32, 3#32].length = [4#32, 5#32, 6#32].length := rfl
theorem witness_KaratsubaComputesTheProduct :
    (1 ≤ [1#32].length ∧ [1#32].length = [2#32].length) ∧
      1 ≤ [1#32, 2#32, 3#32].length ∧ [1#32, 2#32, 3#32].length = [4#32, 5#32, 6#32].length := by decide
theorem witness_UnbalancedSplitComputesTheProduct : 1 ≤ [7#32].length ∧ [1#32, 2#32].length = 2 * [7#32].length := by decide

theorem witness_ModPhiIsTheUniqueRemainder : (0 : Nat) < 2 ^ 19937 ∧ phi ^^^ 0 = clmul 1 phi := by decide +kernel

/-- One block of one bit covers t^19937; no block is needed below it. -/
theorem witness_FoldingBlocksReduces :
    BlocksCover (2 ^ 19937) [(19937, 19937)] ∧ BlocksCover (2 ^ 19936) [] := by
  refine ⟨⟨le_rfl, le_rfl, by decide, ?_, fun y hy => hy⟩, ?_⟩
  · exact Nat.pow_lt_pow_right (by decide) (by decide)
  · exact Nat.pow_lt_pow_right (by decide) (by decide)

theorem witness_RomPHoldsItsFormula : (20 ≤ 20 ∧ 6 ≤ 6) ∧ romP 0 6 = modPhi (2 ^ 7) := ⟨⟨le_rfl, le_rfl⟩, by decide +kernel⟩
theorem witness_RomTHoldsItsFormula : (20 ≤ 20 ∧ 6 ≤ 6) ∧ romT .two 0 1 = matPower .two 2 :=
  ⟨⟨le_rfl, le_rfl⟩, by decide +kernel⟩
theorem witness_JumpPolyIsThePowerOfT : 2 ^ 63 - 1 ≤ 2 ^ 63 - 1 ∧ 0 ≤ 2 ^ 63 - 1 := by decide
theorem witness_JumpPolysCompose : 1 + (2 ^ 63 - 2) ≤ 2 ^ 63 - 1 ∧ 0 + 0 ≤ 2 ^ 63 - 1 := by decide
theorem witness_MpowIsThePowerOfA : 2 ^ 63 - 1 ≤ 2 ^ 63 - 1 ∧ 0 ≤ 2 ^ 63 - 1 := by decide

theorem witness_TransitionMatricesAreOneStep :
    (⟨⟨4294967086, 0, 1⟩, ⟨4294944442, 0, 1⟩⟩ : MrgState).legal = true := by decide
theorem witness_MrgJumpEqualsStepping :
    (⟨⟨4294967086, 4294967086, 4294967086⟩, ⟨0, 0, 1⟩⟩ : MrgState).legal = true ∧ 2 ^ 63 - 1 ≤ 2 ^ 63 - 1 ∧
      5 + (2 ^ 63 - 6) ≤ 2 ^ 63 - 1 := by decide

/-- A legal state, one component all zero, before MRG_JUMP and before MRG_APPLY. -/
theorem witness_MrgCommandsKeepLegalStates :
    (let s := running .mrgJump (ops 0 0 0 0 1) (filled 0 (u64s [1, 2, 3, 0, 0, 0]))
     (s.readMrg s.operands.dst.toNat).legal = true ∧ (s.readMrg s.operands.dst.toNat).c2 = ⟨0, 0, 0⟩ ∧
       goesTo (exec .mrgJump s) (fun _ => true) = true) ∧
    (let s := running .mrgApply (ops 0 12 12 0 0) (filled 0 (u64s ([0, 0, 0, 4, 5, 6] ++ List.replicate 9 1)))
     (s.readMrg s.operands.dst.toNat).legal = true ∧ (s.readMrg s.operands.dst.toNat).c1 = ⟨0, 0, 0⟩ ∧
       goesTo (exec .mrgApply s) (fun _ => true) = true) := by decide +kernel

theorem witness_CollectedBitsAreLowBits : 0 < 39874 ∧ 39873 < 39874 := by decide

/-- The cursors 1, 624 and 0, the steps 0 and 2⁶³ − 1, the second output, and a step whose polynomial has the constant term
0, beside one whose polynomial has not. -/
theorem witness_MtJumpEqualsSteppingInOutputs :
    (∀ idx ∈ [0, 1, 624], (⟨Vector.replicate 624 1#32, idx⟩ : MtState).idx ≤ 624) ∧
      1 ≤ (⟨Vector.replicate 624 1#32, 1⟩ : MtState).idx ∧ 0 ≤ 2 ^ 63 - 1 ∧ 2 ^ 63 - 1 ≤ 2 ^ 63 - 1 ∧ 1 ≤ 1 ∧
      (⟨Vector.replicate 624 1#32, 0⟩ : MtState).idx = 0 ∧ (jumpPoly 1).testBit 0 = false ∧
      (jumpPoly 0).testBit 0 = true := by decide +kernel

end Sys2Proof.Tests
end

section
/-! PROOFS. PARAM (10_state.md R25): its offset, the value it holds, and what the two transactions on it do. -/

namespace Sys2Proof.Machine

/-- The offset of PARAM (R25, R32). -/
@[simp] theorem targetOf_param (ww : Nat) : targetOf ww 0x00C = .param := rfl

/-- PARAM holds WMEM_WORDS (R8, R25). -/
@[simp] theorem State.ofNat_wmemWords (s : State) : BitVec.ofNat 32 s.wmemWords = s.param := by
  simp [State.wmemWords]

/-- A read of PARAM responds with what PARAM holds, whatever RUN is (R25). -/
theorem step_readParam {s : State} {rest : List Input} (hi : s.inputs = .host (regRead 0x00C) :: rest) :
    step s = .next { s with inputs := rest, response := some s.param } := by
  rw [step_regRead hi rfl, targetOf_param]
  rfl

/-- A write to PARAM takes the transaction and changes nothing else, whatever RUN is (R25). -/
theorem step_writeParam {s : State} {v : Word} {rest : List Input}
    (hi : s.inputs = .host (regWrite 0x00C v) :: rest) :
    step s = .next { s with inputs := rest, response := none } := by
  rw [step_regWrite hi rfl, targetOf_param]
  rfl

/-- Settles O17: one step rule for each kind of transaction on PARAM; neither looks at RUN (R25). -/
theorem paramReadsWmemWords : Obligations.ParamReadsWmemWords := by
  intro s rest
  refine ⟨fun hread => ?_, fun v hwrite => step_writeParam hwrite⟩
  rw [State.ofNat_wmemWords]
  exact step_readParam hread

end Sys2Proof.Machine
end

section
/-! PROOFS. The decoder, the table and the encoder agree (30_encoding.md R72): `encode` is compared with each of the
other two once, and every other agreement goes through it. -/

namespace Sys2Proof

open Sys2Proof.Statement

/-- Decoding an encoded command gives it back (R72). -/
@[simp] theorem decode_encode (i : Instr) : decode (encode i) = .ok i := by
  cases i <;> rfl

/-- The decoder accepts no word but the encoder's: each of its arms fixes the whole word (mask 0xFFFFFFFF, R72). -/
theorem eq_encode_of_decode_eq_ok {w : Word} {i : Instr} (h : decode w = .ok i) : w = encode i := by
  apply BitVec.eq_of_toNat_eq
  unfold decode at h
  split at h
  case h_17 => cases h
  all_goals
    next hw =>
      cases h
      exact hw

/-- A word decodes to a command exactly when it is the command's word (R72). -/
theorem decode_eq_ok_iff {w : Word} {i : Instr} : decode w = .ok i ↔ w = encode i :=
  ⟨eq_encode_of_decode_eq_ok, fun h => h ▸ decode_encode i⟩

/-- Every row of the table of R72 holds the word that the encoder writes for its command. -/
theorem eq_encode_of_row : ∀ row ∈ tableWords, row.1 = encode row.2 := by decide

/-- Every command has its row in the table of R72. -/
theorem encode_mem_tableWords (i : Instr) : (encode i, i) ∈ tableWords := by
  cases i <;> decide

/-- The table of R72 is the encoder, row by row. -/
theorem mem_tableWords_iff {w : Word} {i : Instr} : (w, i) ∈ tableWords ↔ w = encode i :=
  ⟨eq_encode_of_row (w, i), fun h => h ▸ encode_mem_tableWords i⟩

/-- Settles O2: the decoder and the table are each the encoder's graph (R72). -/
theorem decodeIsExactMatch : Obligations.DecodeIsExactMatch :=
  fun _ _ => ⟨decode_eq_ok_iff.trans mem_tableWords_iff.symm, decode_eq_ok_iff⟩

end Sys2Proof
end

section
/-! PROOFS. Successful completion (40_command_execution.md R104, R106), said once for every command, and NOP (R112). -/

namespace Sys2Proof.Machine

open Sys2Proof.Statement

/-- A command that answers `completeOk` completes with those words: the stored region reads back and the rest of WMEM
reads as before (R104, R106). -/
theorem completes_of_exec_eq_completeOk {i : Instr} {s : State} {start : Nat} {ws : List Word}
    (h : exec i s = .next (s.completeOk start ws)) : Completes i s start ws :=
  ⟨s.completeOk start ws, h, rfl, fun k hk => State.readWord_writeList s start ws k hk,
    fun a ha => State.readWord_writeList_outside s start ws a ha⟩

/-- None of checks 2 to 5 of R103 can fail for NOP: it has no length, region or step operand (R112). -/
theorem firstError_nop (ww : Nat) (o : Args) : firstError ww .nop o = none := by
  have hlength : lengthFails .nop o = false := rfl
  have hrange : rangeFails ww .nop o = false := rfl
  have hoverlap : overlapFails .nop o = false := rfl
  have hstep : stepFails .nop o = false := rfl
  exact firstError_eq_none.2 ⟨hlength, hrange, hoverlap, hstep⟩

/-- NOP succeeds in every state and stores no word (R112). -/
theorem exec_nop (s : State) : exec .nop s = .next (s.completeOk 0 []) :=
  exec_of_firstError_none (firstError_nop s.wmemWords s.operands)

/-- Settles O28: no check of NOP can fail, so it completes with the empty list of words (R112). -/
theorem nopMeaning : Obligations.NopMeaning :=
  ⟨decode_encode .nop, fun s => completes_of_exec_eq_completeOk (exec_nop s)⟩

end Sys2Proof.Machine
end

section
/-! PROOFS. The checks that need no WMEM (40_command_execution.md R103, checks 2 to 4) in the words of the statements:
which code each raises, and the region rule of every command whose success the other checks cannot stop. -/

namespace Sys2Proof.Machine

open Sys2Proof.Statement

/-- A failing check 2 decides (R103). -/
theorem firstError_of_lengthFails {i : Instr} {o : Args} (hlen : lengthFails i o = true) (ww : Nat) :
    firstError ww i o = some .badLength := by
  simp [firstError, hlen]

/-- A failing check 3 decides when check 2 passes (R103). -/
theorem firstError_of_rangeFails {ww : Nat} {i : Instr} {o : Args} (hlen : lengthFails i o = false)
    (hrange : rangeFails ww i o = true) : firstError ww i o = some .badAddress := by
  simp [firstError, hlen, hrange]

/-- A failing check 4 decides when checks 2 and 3 pass (R103). -/
theorem firstError_of_overlapFails {ww : Nat} {i : Instr} {o : Args} (hlen : lengthFails i o = false)
    (hrange : rangeFails ww i o = false) (hoverlap : overlapFails i o = true) :
    firstError ww i o = some .overlap := by
  simp [firstError, hlen, hrange, hoverlap]

/-- A command without a step operand passes check 5 (R111). -/
theorem stepFails_of_not_takesStep {i : Instr} (h : takesStep i = false) (o : Args) : stepFails i o = false := by
  simp [stepFails, h]

/-- A command without a length operand passes check 2 (R77). -/
theorem lengthFails_of_not_takesLength {i : Instr} (h : takesLength i = false) (o : Args) :
    lengthFails i o = false := by
  simp [lengthFails, h]

/-- The code of the first failing check of 2 to 5 is raised (R103, R105). -/
theorem raises_of_firstError {i : Instr} {s : State} {c : ErrCode}
    (h : firstError s.wmemWords i s.operands = some c) : Raises i s c :=
  exec_of_firstError_some h

/-- A length of 0 or above 624 raises BAD_LENGTH, whatever the regions are (R77, R103). -/
theorem raises_badLength {i : Instr} {s : State} (htakes : takesLength i = true)
    (hn : s.operands.n = 0 ∨ 624 < s.operands.n) : Raises i s .badLength := by
  have hfails : lengthFails i s.operands = true := by
    rw [← Bool.not_eq_false, lengthFails_eq_false]
    intro hlegal
    have := hlegal htakes
    omega
  exact raises_of_firstError (firstError_of_lengthFails hfails _)

section

variable {i : Instr} {s : State} {sources : List Region} {d : Region}

/-- Check 3 passes exactly when every region of the command is in range (R109). -/
theorem rangeFails_eq_false_iff_fits (hfoot : footprint i s.operands = ⟨sources, some d⟩) :
    rangeFails s.wmemWords i s.operands = false ↔ ∀ r ∈ d :: sources, Fits s r := by
  rw [rangeFails_eq_false, hfoot]
  exact forall_congr' fun r => imp_congr_left (by simp [or_comm])

/-- Check 4 passes exactly when the destination is apart from every source (R110). -/
theorem overlapFails_eq_false_iff_apart (hfoot : footprint i s.operands = ⟨sources, some d⟩) :
    overlapFails i s.operands = false ↔ ∀ r ∈ sources, Apart d r := by
  rw [overlapFails_eq_false, hfoot]
  simp [Apart]

/-- Checks 3 and 4 follow the region rule over the command's footprint, and what the command does once both pass is left
to `hpass` (R103). -/
theorem regionRule_of_footprint {passes : Prop} (hlen : lengthFails i s.operands = false)
    (hfoot : footprint i s.operands = ⟨sources, some d⟩)
    (hpass : rangeFails s.wmemWords i s.operands = false → overlapFails i s.operands = false → passes) :
    RegionRule i s sources d passes := by
  have hrange := rangeFails_eq_false_iff_fits hfoot
  have hoverlap := overlapFails_eq_false_iff_apart hfoot
  refine ⟨fun ⟨r, hr, hout⟩ => ?_, fun hfits ⟨r, hr, hmeet⟩ => ?_, fun hfits hapart => ?_⟩
  · have hfails : rangeFails s.wmemWords i s.operands = true :=
      eq_true_of_ne_false fun h => hout (hrange.1 h r hr)
    exact raises_of_firstError (firstError_of_rangeFails hlen hfails)
  · have hfails : overlapFails i s.operands = true :=
      eq_true_of_ne_false fun h => hmeet (hoverlap.1 h r hr)
    exact raises_of_firstError (firstError_of_overlapFails hlen (hrange.2 hfits) hfails)
  · exact hpass (hrange.2 hfits) (hoverlap.2 hapart)

/-- A command that has no step operand and no operand value to check completes with its words once checks 3 and 4 pass
(R103, R104). -/
theorem regionRule_completes {start : Nat} {ws : List Word} (hlen : lengthFails i s.operands = false)
    (hfoot : footprint i s.operands = ⟨sources, some d⟩) (hstep : takesStep i = false)
    (hresult : resultOf i s s.operands = s.completeOk start ws) :
    RegionRule i s sources d (Completes i s start ws) :=
  regionRule_of_footprint hlen hfoot fun hrange hoverlap =>
    completes_of_exec_eq_completeOk <| by
      rw [exec_of_firstError_none (firstError_eq_none.2 ⟨hlen, hrange, hoverlap, stepFails_of_not_takesStep hstep _⟩),
        hresult]

/-- The same for a command with a length operand (R77): the length check stands before the region rule (R103). -/
theorem lengthRule_completes {start : Nat} {ws : List Word} (htakes : takesLength i = true)
    (hfoot : footprint i s.operands = ⟨sources, some d⟩) (hstep : takesStep i = false)
    (hresult : resultOf i s s.operands = s.completeOk start ws) :
    ((s.operands.n = 0 ∨ 624 < s.operands.n) → Raises i s .badLength) ∧
    (1 ≤ s.operands.n → s.operands.n ≤ 624 → RegionRule i s sources d (Completes i s start ws)) :=
  ⟨raises_badLength htakes, fun hmin hmax =>
    regionRule_completes (lengthFails_eq_false.2 fun _ => ⟨hmin, hmax⟩) hfoot hstep hresult⟩

end

end Sys2Proof.Machine
end

section
/-! PROOFS. The multiply commands (41_gf2_multiply.md R122, R123, R126). What the shared rules ask of a command, its
row of R76, R77 and R80 and its result, holds by computing the model's tables, so each proof only names the rule. -/

namespace Sys2Proof.Machine

/-- Settles O29: CLMUL32 has no length, step or operand check, so the region rule is its whole meaning (R122). -/
theorem clmul32Meaning : Obligations.Clmul32Meaning :=
  ⟨decode_encode .clmul32, fun _ =>
    regionRule_completes (lengthFails_of_not_takesLength rfl _) rfl rfl rfl⟩

/-- Settles O30: both algorithms of PMUL have one footprint and one result (R123). -/
theorem pmulMeaning : Obligations.PmulMeaning := by
  refine ⟨decode_encode .pmulGs, decode_encode .pmulKa, fun i hi s n hn => ?_⟩
  have hcommand : i = .pmulGs ∨ i = .pmulKa := by simpa using hi
  subst hn
  rcases hcommand with rfl | rfl <;> exact lengthRule_completes rfl rfl rfl rfl

/-- Settles O31: both algorithms of PMULU have one footprint and one result (R126). -/
theorem pmuluMeaning : Obligations.PmuluMeaning := by
  refine ⟨decode_encode .pmuluGs, decode_encode .pmuluKa, fun i hi s n hn => ?_⟩
  have hcommand : i = .pmuluGs ∨ i = .pmuluKa := by simpa using hi
  subst hn
  rcases hcommand with rfl | rfl <;> exact lengthRule_completes rfl rfl rfl rfl

end Sys2Proof.Machine
end

section
/-! PROOFS. The carry-less product by its coefficients (41_gf2_multiply.md R120). Sums over GF(2) are sums in Mathlib's
Boolean ring on `Bool`, whose addition is XOR. -/

namespace Sys2Proof.Machine

open Finset

/-- A running XOR is a sum over GF(2). -/
theorem foldl_xor_range (f : Nat → Bool) (n : Nat) :
    (List.range n).foldl (fun b i => b ^^ f i) false = ∑ i ∈ range n, f i := by
  induction n with
  | zero => rfl
  | succ n ih => simp [List.range_succ, List.foldl_append, ih, sum_range_succ, Bool.add_eq_xor]

/-- A polynomial of degree below m has no coefficient from m on (R10). -/
theorem testBit_eq_false_of_lt_of_le {p m i : Nat} (hp : p < 2 ^ m) (h : m ≤ i) : p.testBit i = false :=
  Nat.testBit_lt_two_pow (hp.trans_le (Nat.pow_le_pow_right (by decide) h))

/-- What the `i`-th round of `clmulAux` adds to coefficient `k`: p_{k−i} q_i, and nothing when k < i. -/
def clmulTerm (p q k i : Nat) : Bool := q.testBit i && (decide (i ≤ k) && p.testBit (k - i))

theorem clmulTerm_of_le {k i : Nat} (h : i ≤ k) (p q : Nat) :
    clmulTerm p q k i = (q.testBit i && p.testBit (k - i)) := by
  simp [clmulTerm, h]

theorem clmulTerm_of_lt {k i : Nat} (h : k < i) (p q : Nat) : clmulTerm p q k i = false := by
  simp [clmulTerm, h]

theorem clmulTerm_of_log2_lt {q i : Nat} (h : q.log2 < i) (p k : Nat) : clmulTerm p q k i = false := by
  have hbit : q.testBit i = false := testBit_eq_false_of_lt_of_le Nat.lt_log2_self h
  simp [clmulTerm, hbit]

/-- One round adds its term to every coefficient. -/
theorem testBit_clmulRound (p q n k : Nat) :
    (if q.testBit n then p <<< n else 0).testBit k = clmulTerm p q k n := by
  cases h : q.testBit n <;> simp [clmulTerm, h, Nat.testBit_shiftLeft]

/-- The loop of the product adds the terms of its rounds to the accumulator. -/
theorem testBit_clmulAux (p q n acc k : Nat) :
    (clmulAux p q n acc).testBit k = acc.testBit k + ∑ i ∈ range n, clmulTerm p q k i := by
  induction n generalizing acc with
  | zero => simp [clmulAux]
  | succ n ih =>
    rw [clmulAux, ih, Nat.testBit_xor, testBit_clmulRound, ← Bool.add_eq_xor, sum_range_succ]
    abel

/-- Coefficient k of the product is Σ_{i ≤ k} p_i q_{k−i} over GF(2) (R120): the terms above k and above the degree of q
are 0, and the sum is read from its other end. -/
theorem testBit_clmul (p q k : Nat) :
    (clmul p q).testBit k = ∑ i ∈ range (k + 1), (p.testBit i && q.testBit (k - i)) := by
  calc (clmul p q).testBit k
      = ∑ i ∈ range (q.log2 + 1), clmulTerm p q k i := by
        rw [clmul, testBit_clmulAux, Nat.zero_testBit, ← Bool.zero_eq_false, zero_add]
    _ = ∑ i ∈ range (k + 1), clmulTerm p q k i :=
        sum_congr_of_eq_on_inter
          (fun i _ hi => clmulTerm_of_lt (by simpa using hi) p q)
          (fun i _ hi => clmulTerm_of_log2_lt (by simpa using hi) p k)
          (fun _ _ _ => rfl)
    _ = ∑ i ∈ range (k + 1), clmulTerm p q k (k - i) := (sum_flip _).symm
    _ = ∑ i ∈ range (k + 1), (p.testBit i && q.testBit (k - i)) :=
        sum_congr rfl fun i hi => by
          have hik : i ≤ k := by simpa [Nat.lt_succ_iff] using hi
          rw [clmulTerm_of_le (Nat.sub_le k i), Nat.sub_sub_self hik, Bool.and_comm]

/-- The degree of a product is at most the sum of the degrees (R120). -/
theorem clmul_lt {p q m n : Nat} (hp : p < 2 ^ m) (hq : q < 2 ^ n) : clmul p q < 2 ^ (m + n - 1) := by
  apply Nat.lt_pow_two_of_testBit
  intro k hk
  rw [testBit_clmul]
  refine sum_eq_zero fun i _ => ?_
  rcases Nat.lt_or_ge i m with him | hmi
  · have hbit : q.testBit (k - i) = false := testBit_eq_false_of_lt_of_le hq (by omega)
    simp [hbit, Bool.zero_eq_false]
  · have hbit : p.testBit i = false := testBit_eq_false_of_lt_of_le hp hmi
    simp [hbit, Bool.zero_eq_false]

/-- Settles O40: the coefficients of the product, and the degree bound for two 32-bit words (R120). -/
theorem clmulCoefficients : Obligations.ClmulCoefficients :=
  ⟨fun p q k => (testBit_clmul p q k).trans (foldl_xor_range _ _).symm, fun a b => clmul_lt a.isLt b.isLt⟩

end Sys2Proof.Machine
end

section
/-! PROOFS. The step check (40_command_execution.md R103, check 5; R111) in the words of the statements: the code
it raises, and the rule of every command that makes it after the region checks. -/

namespace Sys2Proof.Machine

open Sys2Proof.Statement

/-- A failing check 5 decides when checks 2 to 4 pass (R103). -/
theorem firstError_of_stepFails {ww : Nat} {i : Instr} {o : Args} (hlen : lengthFails i o = false)
    (hrange : rangeFails ww i o = false) (hoverlap : overlapFails i o = false) (hstep : stepFails i o = true) :
    firstError ww i o = some .stepTooLarge := by
  simp [firstError, hlen, hrange, hoverlap, hstep]

/-- Check 5 of a command with a step operand passes exactly when the step is at most 2⁶³ − 1 (R111). -/
theorem stepFails_eq_false_iff_le {i : Instr} {o : Args} (htakes : takesStep i = true) :
    stepFails i o = false ↔ o.step ≤ 2 ^ 63 - 1 := by
  rw [stepFails_eq_false]
  simp only [htakes, forall_const]
  omega

section

variable {i : Instr} {s : State} {sources : List Region} {d : Region}

/-- Once checks 2 to 4 have passed, check 5 follows the step rule, and what the command does once it passes as well is left
to `hpass` (R103). -/
theorem stepRule_of_takesStep {passes : Prop} (htakes : takesStep i = true) (hlen : lengthFails i s.operands = false)
    (hrange : rangeFails s.wmemWords i s.operands = false) (hoverlap : overlapFails i s.operands = false)
    (hpass : firstError s.wmemWords i s.operands = none → passes) : StepRule i s passes := by
  have hstep := stepFails_eq_false_iff_le (o := s.operands) htakes
  refine ⟨fun hlarge => ?_, fun hlegal => ?_⟩
  · have hfails : stepFails i s.operands = true :=
      eq_true_of_ne_false fun h => Nat.not_le_of_lt hlarge (hstep.1 h)
    exact raises_of_firstError (firstError_of_stepFails hlen hrange hoverlap hfails)
  · exact hpass (firstError_eq_none.2 ⟨hlen, hrange, hoverlap, hstep.2 hlegal⟩)

/-- Checks 3 to 5 of a command with a step operand follow the region rule and then the step rule (R103). -/
theorem regionRule_stepRule {passes : Prop} (htakes : takesStep i = true) (hlen : lengthFails i s.operands = false)
    (hfoot : footprint i s.operands = ⟨sources, some d⟩)
    (hpass : firstError s.wmemWords i s.operands = none → passes) :
    RegionRule i s sources d (StepRule i s passes) :=
  regionRule_of_footprint hlen hfoot fun hrange hoverlap => stepRule_of_takesStep htakes hlen hrange hoverlap hpass

/-- A command whose result once checks 2 to 5 have passed is `completeOk` completes with those words (R103, R104). -/
theorem completes_of_firstError_none {start : Nat} {ws : List Word}
    (hresult : resultOf i s s.operands = s.completeOk start ws)
    (hnone : firstError s.wmemWords i s.operands = none) : Completes i s start ws :=
  completes_of_exec_eq_completeOk <| by rw [exec_of_firstError_none hnone, hresult]

end

end Sys2Proof.Machine
end

section
/-! PROOFS. The base-8 decomposition (42_phi_reduction.md R142 and R146, 43_mrg32k3a_matrix.md R166 and R171): the digit
loop of the step 0, and the tables' powers for any multiplication of powers that adds their exponents. -/

namespace Sys2Proof.Machine

/-- Every base-8 digit of the step 0 is 0 (R146). -/
@[simp] theorem digit_zero (i : Nat) : digit 0 i = 0 := by
  simp [digit]

/-- The digit loop combines nothing for the step 0 (R111, R146). -/
theorem digitLoop_zero {α : Type} (combine : α → α → α) (table : Nat → Nat → α) (one : α) :
    digitLoop combine table one 0 = one := by
  have hround (i : Nat) : (if 0 < digit 0 i then combine one (table i (digit 0 i - 1)) else one) = one := by simp
  exact List.foldl_fixed' hround _

section

variable {α : Type} {mul : α → α → α} {power : Nat → α} (hmul : ∀ a b, mul (power a) (power b) = power (a + b))

include hmul

/-- Three squarings multiply the exponent by 8. -/
theorem pow8_power (e : Nat) : pow8 mul (power e) = power (e * 8) := by
  simp only [pow8, hmul]
  congr 1
  omega

/-- Column j of a table multiplies the exponent of its row by j + 1 (R142, R166). -/
theorem powSucc_power (e j : Nat) : powSucc mul (power e) j = power ((j + 1) * e) := by
  induction j with
  | zero => simp [powSucc]
  | succ j ih => rw [powSucc, ih, hmul, ← Nat.succ_mul]

/-- Row i of a table begins with the exponent times 8^i (R142, R166). -/
theorem getD_octaves_power {n i : Nat} (h : i < n) (e : Nat) (default : α) :
    (octaves mul (power e) n).getD i default = power (e * 8 ^ i) := by
  induction n generalizing i e with
  | zero => omega
  | succ n ih =>
    rw [octaves, pow8_power hmul]
    cases i with
    | zero => simp
    | succ i => rw [List.getD_cons_succ, ih (by omega), Nat.pow_succ', Nat.mul_assoc]

end

end Sys2Proof.Machine
end

section
/-! PROOFS. The commands of 42_phi_reduction.md: PMOD (R144) and JPOLY (R146). As for the multiply commands, each one's row
of R76, R77 and R80 and its result hold by computing the model's tables. -/

namespace Sys2Proof.Machine

/-- The jump polynomial of step 0 is 1 (R146). -/
@[simp] theorem jumpPoly_zero : jumpPoly 0 = 1 := digitLoop_zero mulPhi romP 1

/-- Settles O32: PMOD has no length, step or operand check, so the region rule is its whole meaning (R144). -/
theorem pmodMeaning : Obligations.PmodMeaning :=
  ⟨decode_encode .pmod, fun _ => regionRule_completes (lengthFails_of_not_takesLength rfl _) rfl rfl rfl⟩

/-- Settles O33: JPOLY has no operand check, so the region rule and then the step rule are its whole meaning (R146). -/
theorem jpolyMeaning : Obligations.JpolyMeaning :=
  ⟨decode_encode .jpoly, fun _ =>
    regionRule_stepRule rfl (lengthFails_of_not_takesLength rfl _) rfl fun hnone =>
      ⟨completes_of_firstError_none rfl hnone, fun hzero => by rw [hzero, jumpPoly_zero]⟩⟩

end Sys2Proof.Machine
end

section
/-! PROOFS. Polynomials held in a `Nat` (00_scope.md R10) as Mathlib's polynomials over GF(2), which is Mathlib's Boolean
ring on `Bool`: XOR is their sum, `clmul` their product (41_gf2_multiply.md R120) and `modPhi` their remainder. -/

namespace Sys2Proof.Machine

open Polynomial

/-- The polynomial over GF(2) whose coefficient of t^k is bit k of `p` (R10). -/
noncomputable def gf2Poly (p : Nat) : Bool[X] := ∑ k ∈ Finset.range (p.log2 + 1), monomial k (p.testBit k)

/-- Coefficient k is bit k (R10). -/
@[simp] theorem coeff_gf2Poly (p k : Nat) : (gf2Poly p).coeff k = p.testBit k := by
  have hhigh : p.log2 < k → p.testBit k = false := testBit_eq_false_of_lt_of_le Nat.lt_log2_self
  simp only [gf2Poly, finsetSum_coeff, coeff_monomial, Finset.sum_ite_eq', Finset.mem_range, Nat.lt_succ_iff]
  split
  case isTrue => rfl
  case isFalse h => rw [hhigh (by omega), Bool.zero_eq_false]

/-- A `Nat` holds one polynomial only (R10). -/
theorem gf2Poly_injective : Function.Injective gf2Poly := by
  intro p q h
  apply Nat.eq_of_testBit_eq
  intro k
  rw [← coeff_gf2Poly, h, coeff_gf2Poly]

/-- XOR adds polynomials over GF(2) (R10). -/
@[simp] theorem gf2Poly_xor (p q : Nat) : gf2Poly (p ^^^ q) = gf2Poly p + gf2Poly q := by
  ext k
  simp [Bool.add_eq_xor]

/-- The carry-less product multiplies polynomials over GF(2) (R120). -/
@[simp] theorem gf2Poly_clmul (p q : Nat) : gf2Poly (clmul p q) = gf2Poly p * gf2Poly q := by
  ext k
  simp [testBit_clmul, coeff_mul, Finset.Nat.sum_antidiagonal_eq_sum_range_succ_mk, Bool.mul_eq_and]

/-- A left shift by n multiplies by t^n (R10). -/
@[simp] theorem gf2Poly_shiftLeft (p n : Nat) : gf2Poly (p <<< n) = gf2Poly p * X ^ n := by
  ext k
  by_cases h : n ≤ k <;> simp [coeff_mul_X_pow', Nat.testBit_shiftLeft, h, Bool.zero_eq_false]

/-- 2^n holds the power t^n (R10). -/
@[simp] theorem gf2Poly_two_pow (n : Nat) : gf2Poly (2 ^ n) = X ^ n := by
  ext k
  rw [coeff_gf2Poly, coeff_X_pow]
  by_cases h : k = n
  · simp [h, Bool.one_eq_true]
  · simp [h, Ne.symm h, Bool.zero_eq_false]

/-- A `Nat` below 2^n holds a polynomial of degree below n (R10). -/
theorem degree_gf2Poly_lt {p n : Nat} (h : p < 2 ^ n) : (gf2Poly p).degree < n := by
  rw [degree_lt_iff_coeff_zero]
  intro k hk
  rw [coeff_gf2Poly, testBit_eq_false_of_lt_of_le h hk, Bool.zero_eq_false]

/-- A `Nat` below 2^(n+1) holds a polynomial of degree at most n (R10). -/
theorem degree_gf2Poly_le {p n : Nat} (h : p < 2 ^ (n + 1)) : (gf2Poly p).degree ≤ n :=
  Order.lt_succ_iff.1 (degree_gf2Poly_lt h)

/-- The powers of t multiply by adding their exponents (R120). -/
theorem clmul_two_pow (a b : Nat) : clmul (2 ^ a) (2 ^ b) = 2 ^ (a + b) :=
  gf2Poly_injective <| by
    rw [gf2Poly_clmul, gf2Poly_two_pow, gf2Poly_two_pow, gf2Poly_two_pow, pow_add]

/-- The degree of φ is 19937 (R140, R141). -/
theorem log2_phi : phi.log2 = degK := by decide +kernel

/-- φ has no coefficient above t^19937 (R140). -/
theorem phi_lt : phi < 2 ^ (degK + 1) := log2_phi ▸ Nat.lt_log2_self

/-- The leading coefficient of φ (R140). -/
theorem testBit_phi_degK : phi.testBit degK = true := by decide +kernel

/-- φ has degree 19937 as Mathlib counts it (R140). -/
theorem degree_gf2Poly_phi : (gf2Poly phi).degree = degK := by
  refine degree_eq_of_le_of_coeff_ne_zero (degree_gf2Poly_le phi_lt) ?_
  simp [testBit_phi_degK, Bool.zero_eq_false]

/-- φ is monic (R140). -/
theorem monic_gf2Poly_phi : (gf2Poly phi).Monic :=
  monic_of_degree_le degK degree_gf2Poly_phi.le ((coeff_gf2Poly _ _).trans testBit_phi_degK)

/-- Every round adds a multiple of φ or nothing, so the remainder stays the same (R10). -/
theorem gf2Poly_reduceFrom_modByMonic (n x : Nat) :
    gf2Poly (reduceFrom n x) %ₘ gf2Poly phi = gf2Poly x %ₘ gf2Poly phi := by
  induction n generalizing x with
  | zero => rfl
  | succ n ih =>
    rw [reduceFrom, ih]
    split
    case isTrue =>
      rw [gf2Poly_xor, gf2Poly_shiftLeft, add_modByMonic, self_mul_modByMonic monic_gf2Poly_phi, add_zero]
    case isFalse => rfl

/-- A polynomial of degree at most n whose coefficient n is 0 has degree below n. -/
theorem lt_two_pow_of_testBit_eq_false {x n : Nat} (hx : x < 2 ^ (n + 1)) (hn : x.testBit n = false) : x < 2 ^ n := by
  apply Nat.lt_pow_two_of_testBit
  intro k hk
  rcases hk.eq_or_lt with rfl | hlt
  · exact hn
  · exact testBit_eq_false_of_lt_of_le hx hlt

/-- The rounds clear every coefficient from degK on (R10). -/
theorem reduceFrom_lt {n x : Nat} (hx : x < 2 ^ (degK + n)) : reduceFrom n x < 2 ^ degK := by
  induction n generalizing x with
  | zero =>
    rw [Nat.add_zero] at hx
    rwa [reduceFrom]
  | succ n ih =>
    rw [reduceFrom]
    apply ih
    split
    case isTrue hbit =>
      have hphi : phi <<< n < 2 ^ (degK + (n + 1)) := by
        rw [Nat.shiftLeft_eq, show degK + (n + 1) = degK + 1 + n by omega, Nat.pow_add]
        exact Nat.mul_lt_mul_of_pos_right phi_lt (Nat.two_pow_pos n)
      apply lt_two_pow_of_testBit_eq_false (Nat.xor_lt_two_pow hx hphi)
      simp [Nat.testBit_shiftLeft, hbit, testBit_phi_degK]
    case isFalse hbit => exact lt_two_pow_of_testBit_eq_false hx (by simpa using hbit)

/-- `x mod φ` has degree below 19937 (R10). -/
theorem modPhi_lt (x : Nat) : modPhi x < 2 ^ degK := by
  apply reduceFrom_lt
  exact Nat.lt_log2_self.trans_le (Nat.pow_le_pow_right (by decide) (by omega))

/-- A polynomial of degree below 19937 is its own remainder by φ. -/
theorem gf2Poly_modByMonic_of_lt {x : Nat} (h : x < 2 ^ degK) : gf2Poly x %ₘ gf2Poly phi = gf2Poly x := by
  rw [modByMonic_eq_self_iff monic_gf2Poly_phi, degree_gf2Poly_phi]
  exact degree_gf2Poly_lt h

/-- `modPhi` is the remainder of Mathlib's division by the monic polynomial φ (R10). -/
@[simp] theorem gf2Poly_modPhi (x : Nat) : gf2Poly (modPhi x) = gf2Poly x %ₘ gf2Poly phi := by
  rw [← gf2Poly_modByMonic_of_lt (modPhi_lt x), modPhi, gf2Poly_reduceFrom_modByMonic]

/-- A polynomial of degree below 19937 is its own remainder (R10). -/
theorem modPhi_of_lt {x : Nat} (h : x < 2 ^ degK) : modPhi x = x :=
  gf2Poly_injective <| by rw [gf2Poly_modPhi, gf2Poly_modByMonic_of_lt h]

/-- Factors may be reduced modulo φ before they are multiplied (R146). -/
theorem mulPhi_modPhi (a b : Nat) : mulPhi (modPhi a) (modPhi b) = modPhi (clmul a b) :=
  gf2Poly_injective (by simp [mulPhi, ← mul_modByMonic])

/-- Powers of t modulo φ multiply by adding their exponents (R142). -/
theorem mulPhi_two_pow (a b : Nat) : mulPhi (modPhi (2 ^ a)) (modPhi (2 ^ b)) = modPhi (2 ^ (a + b)) := by
  rw [mulPhi_modPhi, clmul_two_pow]

end Sys2Proof.Machine
end

section
/-! PROOFS. ROM table P (42_phi_reduction.md R142): the base-8 powers of t under multiplication modulo φ. -/

namespace Sys2Proof.Machine

/-- The polynomial t is reduced (R142). -/
theorem modPhi_two_pow_one : modPhi (2 ^ 1) = 2 := modPhi_of_lt (Nat.pow_lt_pow_right (by decide) (by decide))

/-- Row i of ROM table P begins with t^(8^i) mod φ (R142). -/
theorem getD_romPOctaves {i : Nat} (h : i < digitCount) : romPOctaves.getD i 0 = modPhi (2 ^ 8 ^ i) := by
  have hrow := getD_octaves_power mulPhi_two_pow h 1 0
  rwa [modPhi_two_pow_one, one_mul] at hrow

/-- `P[i][j] = t^((j+1)·8^i) mod φ`, for every column j (R142). -/
theorem romP_eq {i : Nat} (h : i < digitCount) (j : Nat) : romP i j = modPhi (2 ^ ((j + 1) * 8 ^ i)) := by
  rw [romP, getD_romPOctaves h, powSucc_power mulPhi_two_pow]

/-- Settles O47: an entry of P is a power of t reduced modulo φ, so its degree is below 19937 (R142). -/
theorem romPHoldsItsFormula : Obligations.RomPHoldsItsFormula := by
  intro i j hi _
  have hentry := romP_eq (Nat.lt_succ_of_le hi : i < digitCount) j
  have hreduced := modPhi_lt (2 ^ ((j + 1) * 8 ^ i))
  rw [← hentry] at hreduced
  unfold degK at hreduced
  exact ⟨hentry, hreduced⟩

end Sys2Proof.Machine
end

section
/-! PROOFS. The operand check (40_command_execution.md R103, check 7; R114) in the words of the statements, and the region
rule of every command that makes it without a step check. -/

namespace Sys2Proof.Machine

open Sys2Proof.Statement

variable {i : Instr} {s : State}

/-- Checks 3 and 4 of a command without length and step operands follow the region rule, and no check of 2 to 5 is left
once both pass (R103). -/
theorem regionRule_of_not_takesStep {sources : List Region} {d : Region} {passes : Prop}
    (hlen : takesLength i = false) (hstep : takesStep i = false) (hfoot : footprint i s.operands = ⟨sources, some d⟩)
    (hpass : firstError s.wmemWords i s.operands = none → passes) : RegionRule i s sources d passes :=
  have hlength := lengthFails_of_not_takesLength hlen s.operands
  regionRule_of_footprint hlength hfoot fun hrange hoverlap =>
    hpass (firstError_eq_none.2 ⟨hlength, hrange, hoverlap, stepFails_of_not_takesStep hstep _⟩)

/-- Once checks 2 to 5 have passed, a command whose result asks only whether its operand values are legal follows the
operand rule (R103, R114). -/
theorem operandRule_of_firstError_none {test legal : Prop} [Decidable test] {start : Nat} {ws : List Word}
    (hlegal : test ↔ legal)
    (hresult : resultOf i s s.operands = if test then s.completeOk start ws else s.completeError .badOperand)
    (hnone : firstError s.wmemWords i s.operands = none) : OperandRule i s legal (Completes i s start ws) := by
  refine ⟨fun hillegal => ?_, fun hok => ?_⟩
  · rw [if_neg (mt hlegal.1 hillegal)] at hresult
    exact (exec_of_firstError_none hnone).trans (congrArg _ hresult)
  · rw [if_pos (hlegal.2 hok)] at hresult
    exact completes_of_firstError_none hresult hnone

end Sys2Proof.Machine
end

section
/-! PROOFS. The operands and results of the matrix unit in WMEM (43_mrg32k3a_matrix.md R163 to R165): legality entry by
entry, and the words of a product in the entries it is computed from. -/

namespace Sys2Proof.Machine

open Sys2Proof.Statement

/-- A vector is legal when each of its three entries is (R165). -/
theorem Vec3.below_iff {m : Nat} {v : Vec3} : v.below m = true ↔ v.e0 < m ∧ v.e1 < m ∧ v.e2 < m := by
  simp [Vec3.below, and_assoc]

/-- A matrix is legal when each of its three rows is (R165). -/
theorem Mat3.legal_iff {m : Nat} {X : Mat3} :
    X.legal m = true ↔ X.r0.below m = true ∧ X.r1.below m = true ∧ X.r2.below m = true := by
  simp [Mat3.legal, and_assoc]

/-- A state is legal when each of its two components is (R165). -/
theorem MrgState.legal_iff {σ : MrgState} :
    σ.legal = true ↔ σ.c1.below mrgM1 = true ∧ σ.c2.below mrgM2 = true := by
  simp [MrgState.legal]

/-- The three entries at `x` are legal (R163, R165). -/
theorem State.readVec_below_iff {s : State} {x m : Nat} :
    (s.readVec x).below m = true ↔ ∀ e < 3, s.u64 (x + 2 * e) < m := by
  rw [Vec3.below_iff]
  refine ⟨fun ⟨h0, h1, h2⟩ e he => ?_, fun h => ⟨h 0 (by decide), h 1 (by decide), h 2 (by decide)⟩⟩
  interval_cases e <;> assumption

/-- The nine entries of the matrix at `x` are legal (R164, R165). -/
theorem State.readMat_legal_iff {s : State} {x m : Nat} :
    (s.readMat x).legal m = true ↔ ∀ e < 9, s.u64 (x + 2 * e) < m := by
  simp only [Mat3.legal_iff, Vec3.below_iff]
  refine ⟨fun ⟨⟨h0, h1, h2⟩, ⟨h3, h4, h5⟩, ⟨h6, h7, h8⟩⟩ e he => ?_, fun h => ?_⟩
  · interval_cases e <;> assumption
  · exact ⟨⟨h 0 (by decide), h 1 (by decide), h 2 (by decide)⟩, ⟨h 3 (by decide), h 4 (by decide), h 5 (by decide)⟩,
      ⟨h 6 (by decide), h 7 (by decide), h 8 (by decide)⟩⟩

/-- The six entries of the state at `x` are legal, each below the modulus of its component (R163, R165). -/
theorem State.readMrg_legal_iff {s : State} {x : Nat} :
    (s.readMrg x).legal = true ↔ ∀ e < 3, s.u64 (x + 2 * e) < mrgM1 ∧ s.u64 (x + 2 * (3 + e)) < mrgM2 := by
  simp only [MrgState.legal_iff, State.readMrg, State.readVec_below_iff, Nat.mul_add, Nat.add_assoc, imp_and, forall_and]

/-- The words of a product of two matrices in WMEM (R164, R167). -/
theorem words_matMul_readMat (m : Nat) (s : State) (a b : Nat) :
    (matMul m (s.readMat a) (s.readMat b)).words =
      entryWords 9 fun e =>
        (s.u64 (a + 2 * (3 * (e / 3))) * s.u64 (b + 2 * (e % 3)) +
          s.u64 (a + 2 * (3 * (e / 3) + 1)) * s.u64 (b + 2 * (3 + e % 3)) +
          s.u64 (a + 2 * (3 * (e / 3) + 2)) * s.u64 (b + 2 * (6 + e % 3))) % m := rfl

/-- The words of the new state when all three operands are in WMEM (R163, R169). -/
theorem words_mrgApply_readMrg (s : State) (d a b : Nat) :
    (mrgApply (s.readMrg d) (s.readMat a) (s.readMat b)).words =
      entryWords 6 fun e =>
        if e < 3 then
          (s.u64 (a + 2 * (3 * e)) * s.u64 d + s.u64 (a + 2 * (3 * e + 1)) * s.u64 (d + 2) +
            s.u64 (a + 2 * (3 * e + 2)) * s.u64 (d + 4)) % mrgM1
        else
          (s.u64 (b + 2 * (3 * (e - 3))) * s.u64 (d + 6) + s.u64 (b + 2 * (3 * (e - 3) + 1)) * s.u64 (d + 8) +
            s.u64 (b + 2 * (3 * (e - 3) + 2)) * s.u64 (d + 10)) % mrgM2 := rfl

end Sys2Proof.Machine
end

section
/-! PROOFS. The commands of 43_mrg32k3a_matrix.md: MMUL (R168), MPOW (R171), MRG_APPLY (R170) and MRG_JUMP (R172). As for
the other commands, each one's row of R76, R77 and R80 and its result hold by computing the model's tables. -/

namespace Sys2Proof.Machine

open Sys2Proof.Statement

/-- MMUL checks both matrices before it writes their product (R168). -/
theorem operandRule_mmul {i : Instr} {k : Component} {s : State} (hresult : resultOf i s = s.mmulResult k)
    (hnone : firstError s.wmemWords i s.operands = none) :
    OperandRule i s
      (∀ e < 9, s.u64 (s.operands.aAddr + 2 * e) < k.modulus ∧ s.u64 (s.operands.bAddr + 2 * e) < k.modulus)
      (Completes i s s.operands.dstAddr
        (matMul k.modulus (s.readMat s.operands.aAddr) (s.readMat s.operands.bAddr)).words) := by
  refine operandRule_of_firstError_none ?_ (congrFun hresult _) hnone
  simp only [Bool.and_eq_true, State.readMat_legal_iff, imp_and, forall_and]

/-- Settles O34: both components of MMUL have one footprint and one operand check (R168). -/
theorem mmulMeaning : Obligations.MmulMeaning := by
  refine ⟨decode_encode .mmulM1, decode_encode .mmulM2, fun p hp s a b ha hb => ?_⟩
  have hcommand : p = (.mmulM1, 4294967087) ∨ p = (.mmulM2, 4294944443) := by simpa using hp
  subst ha hb
  rcases hcommand with rfl | rfl
  · exact regionRule_of_not_takesStep rfl rfl rfl (operandRule_mmul (k := .one) rfl)
  · exact regionRule_of_not_takesStep rfl rfl rfl (operandRule_mmul (k := .two) rfl)

/-- The power of step 0 is the identity (R111, R171). -/
@[simp] theorem mrgPow_zero (k : Component) : mrgPow k 0 = Mat3.one := digitLoop_zero _ (romT k) Mat3.one

/-- Settles O35: both components of MPOW have one footprint and no operand check (R171). -/
theorem mpowMeaning : Obligations.MpowMeaning := by
  refine ⟨decode_encode .mpowM1, decode_encode .mpowM2, fun p hp s => ?_⟩
  have hcommand : p = (.mpowM1, .one) ∨ p = (.mpowM2, .two) := by simpa using hp
  have hidentity (hzero : s.operands.step = 0) : mrgPow p.2 s.operands.step = Mat3.one := by rw [hzero, mrgPow_zero]
  rcases hcommand with rfl | rfl <;>
    exact regionRule_stepRule rfl (lengthFails_of_not_takesLength rfl _) rfl fun hnone =>
      ⟨completes_of_firstError_none rfl hnone, hidentity⟩

/-- Settles O36: MRG_APPLY checks the state and both matrices before it writes the new state (R170). -/
theorem mrgApplyMeaning : Obligations.MrgApplyMeaning := by
  refine ⟨decode_encode .mrgApply, fun s d a b hd ha hb => ?_⟩
  subst hd ha hb
  refine regionRule_of_not_takesStep rfl rfl rfl (operandRule_of_firstError_none ?_ rfl)
  simp only [Bool.and_eq_true, State.readMrg_legal_iff, State.readMat_legal_iff, imp_and, forall_and, and_assoc]
  rfl

/-- Settles O37: step 0 of MRG_JUMP ends before the operand check, and every other step makes it (R172, R103). -/
theorem mrgJumpMeaning : Obligations.MrgJumpMeaning := by
  refine ⟨decode_encode .mrgJump, fun s d hd => ?_⟩
  subst hd
  refine regionRule_stepRule rfl (lengthFails_of_not_takesLength rfl _) rfl fun hnone =>
    ⟨fun hzero => ?_, fun hstep => ?_⟩
  · exact completes_of_firstError_none (if_pos hzero) hnone
  · exact operandRule_of_firstError_none State.readMrg_legal_iff (if_neg hstep) hnone

end Sys2Proof.Machine
end

section
/-! PROOFS. The matrices of 43_mrg32k3a_matrix.md as Mathlib's 3×3 matrices over the integers modulo m: `matMul` is their
product (R167) and `matPower` their power, so powers of a transition matrix multiply by adding their exponents. -/

namespace Sys2Proof.Machine

open Sys2Proof.Statement

/-- The remainder of a sum of products is that sum over the integers modulo m (R167). -/
theorem natCast_dotMod (m : Nat) (x y : Vec3) :
    (dotMod m x y : ZMod m) = x.e0 * y.e0 + x.e1 * y.e1 + x.e2 * y.e2 := by
  simp [dotMod]

/-- A vector over the integers modulo m. -/
def Vec3.toZMod (m : Nat) (v : Vec3) : Fin 3 → ZMod m := ![v.e0, v.e1, v.e2]

/-- A matrix over the integers modulo m, by rows (R164). -/
def Mat3.toZMod (m : Nat) (X : Mat3) : Matrix (Fin 3) (Fin 3) (ZMod m) :=
  Matrix.of ![X.r0.toZMod m, X.r1.toZMod m, X.r2.toZMod m]

/-- A vector is its three entries. -/
@[ext] theorem Vec3.ext {v w : Vec3} (h0 : v.e0 = w.e0) (h1 : v.e1 = w.e1) (h2 : v.e2 = w.e2) : v = w := by
  obtain ⟨⟩ := v
  congr

/-- A matrix is its three rows (R164). -/
@[ext] theorem Mat3.ext {X Y : Mat3} (h0 : X.r0 = Y.r0) (h1 : X.r1 = Y.r1) (h2 : X.r2 = Y.r2) : X = Y := by
  obtain ⟨⟩ := X
  congr

/-- Two legal entries that agree modulo m are equal (R165). -/
theorem eq_of_natCast_eq_of_lt {m x y : Nat} (hx : x < m) (hy : y < m) (h : (x : ZMod m) = y) : x = y :=
  ((ZMod.natCast_eq_natCast_iff x y m).1 h).eq_of_lt_of_lt hx hy

/-- Two legal vectors that agree modulo m are equal (R165). -/
theorem Vec3.toZMod_injOn (m : Nat) : Set.InjOn (Vec3.toZMod m) {v | v.below m = true} := by
  intro v hv w hw h
  obtain ⟨hv0, hv1, hv2⟩ := Vec3.below_iff.1 hv
  obtain ⟨hw0, hw1, hw2⟩ := Vec3.below_iff.1 hw
  exact Vec3.ext (eq_of_natCast_eq_of_lt hv0 hw0 (congrFun h 0)) (eq_of_natCast_eq_of_lt hv1 hw1 (congrFun h 1))
    (eq_of_natCast_eq_of_lt hv2 hw2 (congrFun h 2))

/-- Two legal matrices that agree modulo m are equal (R165). -/
theorem Mat3.toZMod_injOn (m : Nat) : Set.InjOn (Mat3.toZMod m) {X | X.legal m = true} := by
  intro X hX Y hY h
  obtain ⟨hX0, hX1, hX2⟩ := Mat3.legal_iff.1 hX
  obtain ⟨hY0, hY1, hY2⟩ := Mat3.legal_iff.1 hY
  exact Mat3.ext (Vec3.toZMod_injOn m hX0 hY0 (congrFun h 0)) (Vec3.toZMod_injOn m hX1 hY1 (congrFun h 1))
    (Vec3.toZMod_injOn m hX2 hY2 (congrFun h 2))

/-- A row of a product is the row times the matrix (R167). -/
theorem toZMod_rowMul (m : Nat) (x : Vec3) (Y : Mat3) :
    (rowMul m x Y).toZMod m = Matrix.vecMul (x.toZMod m) (Y.toZMod m) := by
  ext j
  fin_cases j <;>
    simp [Vec3.toZMod, Mat3.toZMod, rowMul, natCast_dotMod, Matrix.vecMul, Mat3.col0, Mat3.col1, Mat3.col2, add_assoc]

/-- `MatMul_m` is the matrix product over the integers modulo m (R167). -/
@[simp] theorem toZMod_matMul (m : Nat) (X Y : Mat3) : (matMul m X Y).toZMod m = X.toZMod m * Y.toZMod m := by
  ext r c
  fin_cases r <;> exact congrFun (toZMod_rowMul m _ Y) c

/-- The model's identity is the identity over the integers modulo m (R171). -/
@[simp] theorem toZMod_one (m : Nat) : Mat3.one.toZMod m = 1 := by
  simp [Mat3.toZMod, Mat3.one, Vec3.toZMod, Matrix.one_fin_three]

/-- `matPower` is the matrix power over the integers modulo m (R162, R167). -/
@[simp] theorem toZMod_matPower (k : Component) (e : Nat) :
    (matPower k e).toZMod k.modulus = k.transition.toZMod k.modulus ^ e := by
  induction e with
  | zero => exact toZMod_one _
  | succ e ih => rw [matPower, toZMod_matMul, ih, pow_succ']

/-- Every entry of a product is a remainder by m (R165, R167). -/
theorem matMul_legal {m : Nat} (hm : 0 < m) (X Y : Mat3) : (matMul m X Y).legal m = true := by
  have hrow (x : Vec3) : (rowMul m x Y).below m = true :=
    Vec3.below_iff.2 ⟨Nat.mod_lt _ hm, Nat.mod_lt _ hm, Nat.mod_lt _ hm⟩
  exact Mat3.legal_iff.2 ⟨hrow _, hrow _, hrow _⟩

/-- Neither modulus is 0 (R160). -/
theorem Component.modulus_pos (k : Component) : 0 < k.modulus := by
  cases k <;> decide

/-- Every power of a transition matrix is legal (R165, R166). -/
theorem matPower_legal (k : Component) (e : Nat) : (matPower k e).legal k.modulus = true := by
  cases e with
  | zero => cases k <;> decide
  | succ e => exact matMul_legal k.modulus_pos _ _

/-- Powers of a transition matrix multiply by adding their exponents (R166). -/
theorem matMul_matPower (k : Component) (a b : Nat) :
    matMul k.modulus (matPower k a) (matPower k b) = matPower k (a + b) := by
  apply Mat3.toZMod_injOn k.modulus (matMul_legal k.modulus_pos _ _) (matPower_legal k _)
  rw [toZMod_matMul, toZMod_matPower, toZMod_matPower, toZMod_matPower, pow_add]

/-- The first power is the transition matrix (R162). -/
@[simp] theorem matPower_one (k : Component) : matPower k 1 = k.transition := by
  cases k <;> decide

end Sys2Proof.Machine
end

section
/-! PROOFS. ROM tables T₁ and T₂ (43_mrg32k3a_matrix.md R166): the base-8 powers of a transition matrix. -/

namespace Sys2Proof.Machine

open Sys2Proof.Statement

/-- Row i of ROM table Tₖ begins with Aₖ^(8^i) mod mₖ (R166). -/
theorem getD_romTOctaves {i : Nat} (h : i < digitCount) (k : Component) :
    (romTOctaves k).getD i Mat3.one = matPower k (8 ^ i) := by
  have hrow := getD_octaves_power (matMul_matPower k) h 1 Mat3.one
  rwa [matPower_one, one_mul] at hrow

/-- `Tₖ[i][j] = Aₖ^((j+1)·8^i) mod mₖ`, for every column j (R166). -/
theorem romT_eq {i : Nat} (h : i < digitCount) (k : Component) (j : Nat) :
    romT k i j = matPower k ((j + 1) * 8 ^ i) := by
  rw [romT, getD_romTOctaves h, powSucc_power (matMul_matPower k)]

/-- Settles O50: an entry of Tₖ is a power of Aₖ, so all its entries are below mₖ (R166). -/
theorem romTHoldsItsFormula : Obligations.RomTHoldsItsFormula := by
  intro k i j hi _
  have hentry := romT_eq (Nat.lt_succ_of_le hi : i < digitCount) k j
  exact ⟨hentry, hentry ▸ matPower_legal k _⟩

end Sys2Proof.Machine
end

section
/-! PROOFS. The cursor check and the result of MT_APPLY of a polynomial (44_mt19937_jump.md R195, R196), and MT_JUMP
(R202). -/

namespace Sys2Proof.Machine

open Sys2Proof.Statement

/-- A cursor up to 624 gives the reconstructed state with cursor 0, and a larger one is an operand error (R195, R201). -/
theorem State.mtApplyResult_eq (s : State) (o : Args) (g : Nat) :
    s.mtApplyResult o g =
      if (s.readWord (o.dstAddr + 624)).toNat ≤ 624 then
        s.completeOk o.dstAddr ((mtReconstruct g (s.readMt o.dstAddr)).toList ++ [0#32])
      else s.completeError .badOperand := by
  rw [← ite_not]
  simp only [Nat.not_le]
  rfl

/-- A command whose result is MT_APPLY of `g` checks the cursor before it writes the new state (R195, R196). -/
theorem operandRule_mtApply {i : Instr} {s : State} {g : Nat}
    (hresult : resultOf i s s.operands = s.mtApplyResult s.operands g)
    (hnone : firstError s.wmemWords i s.operands = none) :
    OperandRule i s ((s.readWord (s.operands.dstAddr + 624)).toNat ≤ 624)
      (Completes i s s.operands.dstAddr
        ((mtReconstruct g (s.readMt s.operands.dstAddr)).toList ++ [0#32])) :=
  operandRule_of_firstError_none Iff.rfl (hresult.trans (s.mtApplyResult_eq s.operands g)) hnone

/-- Settles O39: step 0 of MT_JUMP ends before the cursor check, and every other step is MT_APPLY of the jump polynomial
(R202, R103). -/
theorem mtJumpMeaning : Obligations.MtJumpMeaning := by
  refine ⟨decode_encode .mtJump, fun s d hd => ?_⟩
  subst hd
  refine regionRule_stepRule rfl (lengthFails_of_not_takesLength rfl _) rfl fun hnone =>
    ⟨fun hzero => ?_, fun hstep => ?_⟩
  · exact completes_of_firstError_none (if_pos hzero) hnone
  · exact operandRule_mtApply (if_neg hstep) hnone

end Sys2Proof.Machine
end

section
/-! PROOFS. The host's transactions while a command runs (70_reset_and_hazards.md R254 and R256): one rule for the access
to each target, then the step that carries it. -/

namespace Sys2Proof.Machine

/-- RUN = Busy is what the hazard rules test (R23, R30). -/
theorem State.isBusy_of_run {s : State} {c : Word} {a : Args} {e : Word} (h : s.run = .busy c a e) :
    s.run.isBusy = true :=
  Run.isBusy_eq_true.2 ⟨c, a, e, h⟩

/-- What the invariant says of a running command: RUN holds the registers of this moment, ERR is not negative and DONE is
0 (R23, R26, R102, R255). -/
theorem State.Inv.registers_of_busy {s : State} {c : Word} {a : Args} {e : Word} (hinv : s.Inv) (h : s.run = .busy c a e) :
    c = s.cmd ∧ a = s.arg ∧ e = s.err ∧ isError s.err = false ∧ s.status.done = false := by
  have hmatch := hinv.runMatches
  rwa [State.runConsistent, h] at hmatch

/-- A command word written while Busy is not issued and not remembered (R254). -/
theorem State.issue_of_isBusy {s : State} (h : s.run.isBusy = true) (v : Word) : s.issue v = s.setOvr := if_pos h

/-- A word written to WMEM while Busy is lost (R256). -/
theorem State.writeWmem_of_isBusy {s : State} (h : s.run.isBusy = true) (w : Nat) (v : Word) :
    s.writeWmem w v = s.setHaz := if_pos h

/-- A WMEM word read while Busy is a free value, not what WMEM holds (R256). -/
theorem State.hostRead_wmem_of_isBusy {s : State} (h : s.run.isBusy = true) (w : Nat) :
    s.hostRead (.wmem w) = s.readWmemBusy := if_pos h

/-- The offset of CMD (R26, R32). -/
@[simp] theorem targetOf_cmd (ww : Nat) : targetOf ww 0x000 = .cmd := rfl

/-- Every word of WMEM has an aligned offset (R32, R51). -/
theorem aperture_aligned (w : Nat) : (0x10000 + 4 * w) % 4 = 0 := by omega

/-- A read of CMD responds with the readback, whatever RUN is (R26). -/
theorem step_readCmd {s : State} {rest : List Input} (hi : s.inputs = .host (regRead 0x000) :: rest) :
    step s = .next { s with inputs := rest, response := some s.cmd } := by
  rw [step_regRead hi rfl, targetOf_cmd]
  rfl

/-- A write to CMD while Busy sets OVR alone (R254). -/
theorem step_writeCmd_of_isBusy {s : State} {v : Word} {rest : List Input} (hbusy : s.run.isBusy = true)
    (hi : s.inputs = .host (regWrite 0x000 v) :: rest) :
    step s = .next { s with inputs := rest, response := none, status := { s.status with ovr := true } } := by
  rw [step_regWrite hi rfl, targetOf_cmd, State.hostWrite, State.issue_of_isBusy (s := { s with inputs := rest }) hbusy]
  rfl

/-- A write to a WMEM word while Busy sets HAZ alone (R256). -/
theorem step_writeWmem_of_isBusy {s : State} {w : Nat} {v : Word} {rest : List Input} (hbusy : s.run.isBusy = true)
    (hw : w < s.wmemWords) (hi : s.inputs = .host (regWrite (0x10000 + 4 * w) v) :: rest) :
    step s = .next { s with inputs := rest, response := none, status := { s.status with haz := true } } := by
  rw [step_regWrite hi (aperture_aligned w), targetOf_aperture hw, State.hostWrite,
    State.writeWmem_of_isBusy (s := { s with inputs := rest }) hbusy]
  rfl

/-- A read of a WMEM word while Busy takes the next free value and sets HAZ (R256). -/
theorem step_readWmem_of_isBusy {s : State} {w : Nat} {rest : List Input} (hbusy : s.run.isBusy = true)
    (hw : w < s.wmemWords) (hi : s.inputs = .host (regRead (0x10000 + 4 * w)) :: rest) :
    step s = .next { s with inputs := rest, response := some (Config.anyWord s.freeCount), freeCount := s.freeCount + 1,
                            status := { s.status with haz := true } } := by
  rw [step_regRead hi (aperture_aligned w), targetOf_aperture hw,
    State.hostRead_wmem_of_isBusy (s := { s with inputs := rest }) hbusy]
  rfl

/-- Settles O10: a CMD write meets the Busy branch of the issue; a CMD read returns the readback, which under the invariant
is the word that RUN holds (R254). -/
theorem commandWriteWhileBusySetsOverrun : Obligations.CommandWriteWhileBusySetsOverrun := by
  intro s c a e rest hrun
  refine ⟨fun v hwrite => step_writeCmd_of_isBusy (State.isBusy_of_run hrun) hwrite, fun hinv hread => ?_⟩
  obtain ⟨hcmd, -⟩ := hinv.registers_of_busy hrun
  rw [hcmd]
  exact step_readCmd hread

/-- Settles O14: the offset names the WMEM word, and each kind of access has its Busy rule (R256). -/
theorem wmemAccessWhileBusy : Obligations.WmemAccessWhileBusy := by
  intro s c a e w rest hrun hw
  have hbusy := State.isBusy_of_run hrun
  exact ⟨fun v hwrite => step_writeWmem_of_isBusy hbusy hw hwrite,
    fun hread => ⟨Config.anyWord s.freeCount, step_readWmem_of_isBusy hbusy hw hread⟩⟩

end Sys2Proof.Machine
end

section
/-! PROOFS. The hardware reset as a step, and the register values it leaves (70_reset_and_hazards.md R250). -/

namespace Sys2Proof.Machine

/-- A pending reset takes effect in either RUN state (R58, R250). -/
theorem step_reset {s : State} {rest : List Input} (hi : s.inputs = .reset :: rest) :
    step s = .next (State.hardReset { s with inputs := rest }) := by
  simp only [step, hi]

/-- A reset clears every operand register (R31, R250). -/
theorem State.hardReset_arg_get (s : State) (r : ArgReg) : s.hardReset.arg.get r = 0#32 := by
  cases r <;> rfl

/-- Settles O19: the fields of the state after a reset, one by one (R31, R250). -/
theorem resetSetsTheRegisters : Obligations.ResetSetsTheRegisters := by
  intro s rest hi
  exact ⟨_, step_reset hi, State.hardReset_cmd _, State.hardReset_status _, State.hardReset_err _,
    State.hardReset_arg_get _, State.hardReset_run _, State.hardReset_param _⟩

end Sys2Proof.Machine
end

section
/-! PROOFS. Everything a step that answers a next state can be, said once as a relation with one constructor for each
kind of event (10_state.md R22 to R33, 40_command_execution.md R100 to R107, 70_reset_and_hazards.md R250 to R256), so
that a statement about every step is a case split over its constructors. -/

namespace Sys2Proof.Machine

open Sys2Proof.Statement

/-- The engine moves next and `rest` stays pending: its turn is in front, or nothing is pending (R104, R108; log 6).
-/
def State.engineNext (s : State) (rest : List Input) : Prop :=
  s.inputs = .engine :: rest ∨ (s.inputs = [] ∧ rest = [])

/-- When the engine moves next, in the words of the statements. -/
theorem State.engineNext.pending {s : State} {rest : List Input} (h : s.engineNext rest) :
    s.inputs = [] ∨ ∃ rest, s.inputs = .engine :: rest :=
  h.elim (fun h => .inr ⟨rest, h⟩) fun h => .inl h.1

theorem State.exists_engineNext {s : State} (h : s.inputs = [] ∨ ∃ rest, s.inputs = .engine :: rest) :
    ∃ rest, s.engineNext rest :=
  h.elim (fun h => ⟨[], .inr ⟨h, rfl⟩⟩) fun ⟨rest, h⟩ => ⟨rest, .inl h⟩

/-- When the engine moves next, the step is its turn (R104, R108). -/
theorem step_of_engineNext {s : State} {rest : List Input} (h : s.engineNext rest) :
    step s = engineTurn { s with inputs := rest } := by
  rcases h with h | ⟨h, rfl⟩
  · simp only [step, h]
  · simp only [step, h]
    rw [← h]

/-- What the host can do while Busy that sets HAZ without reading: a write to ERR, an ARG register or a WMEM word
(R255, R256). -/
def State.hazardWrite (s : State) (rest : List Input) : Prop :=
  (∃ v, s.inputs = .host (regWrite 0x008 v) :: rest) ∨
  (∃ r v, s.inputs = .host (regWrite (argOffset r) v) :: rest) ∨
  ∃ w < s.wmemWords, ∃ v, s.inputs = .host (regWrite (0x10000 + 4 * w) v) :: rest

/-- The steps of the machine that answer a next state. -/
inductive Move (s : State) : State → Prop
  | engineIdle {rest : List Input} (hnext : s.engineNext rest) (hidle : s.run = .idle) :
      Move s { s with inputs := rest }
  | engineError {rest : List Input} {c : Word} {a : Args} {e : Word} (code : ErrCode) (hnext : s.engineNext rest)
      (hbusy : s.run = .busy c a e) : Move s (State.completeError { s with inputs := rest } code)
  | engineOk {rest : List Input} {c : Word} {a : Args} {e : Word} {i : Instr} (start : Nat) (ws : List Word)
      (hnext : s.engineNext rest) (hbusy : s.run = .busy c a e) (hdecode : decode c = .ok i)
      (hstored : ∀ x, start ≤ x ∧ x < start + ws.length →
        x < s.wmemWords ∧ ∃ d ∈ (footprint i a).dest, InRegion d x) :
      Move s (State.completeOk { s with inputs := rest } start ws)
  | reset {rest : List Input} (hi : s.inputs = .reset :: rest) : Move s (State.hardReset { s with inputs := rest })
  | overrun {rest : List Input} {v : Word} (hi : s.inputs = .host (regWrite 0x000 v) :: rest)
      (hbusy : s.run.isBusy = true) : Move s (State.respond (State.setOvr { s with inputs := rest }) none)
  | skip {rest : List Input} {v : Word} (hi : s.inputs = .host (regWrite 0x000 v) :: rest) (hidle : s.run = .idle)
      (herr : isError s.err = true) : Move s (State.respond (State.skip { s with inputs := rest } v) none)
  | accept {rest : List Input} {v : Word} (hi : s.inputs = .host (regWrite 0x000 v) :: rest) (hidle : s.run = .idle)
      (herr : isError s.err = false) : Move s (State.respond (State.accept { s with inputs := rest } v) none)
  | writeStatus {rest : List Input} {v : Word} (hi : s.inputs = .host (regWrite 0x004 v) :: rest) :
      Move s (State.respond (State.writeStatus { s with inputs := rest } v) none)
  | writeErr {rest : List Input} {v : Word} (hi : s.inputs = .host (regWrite 0x008 v) :: rest)
      (hidle : s.run = .idle) : Move s { s with inputs := rest, err := v, response := none }
  | writeArg {rest : List Input} {r : ArgReg} {v : Word} (hi : s.inputs = .host (regWrite (argOffset r) v) :: rest)
      (hidle : s.run = .idle) : Move s { s with inputs := rest, arg := s.arg.set r v, response := none }
  | writeWmem {rest : List Input} {v : Word} (w : Nat) (hw : w < s.wmemWords)
      (hi : s.inputs = .host (regWrite (0x10000 + 4 * w) v) :: rest) (hidle : s.run = .idle) :
      Move s { s with inputs := rest, wmem := s.wmem.set w v, response := none }
  | hazardWrite {rest : List Input} (hi : s.hazardWrite rest) (hbusy : s.run.isBusy = true) :
      Move s (State.respond (State.setHaz { s with inputs := rest }) none)
  | ignored {rest : List Input} {off : Nat} {v : Word} (hi : s.inputs = .host (regWrite off v) :: rest) :
      Move s { s with inputs := rest, response := none }
  | read {rest : List Input} {off : Nat} (v : Word) (hi : s.inputs = .host (regRead off) :: rest) :
      Move s { s with inputs := rest, response := some v }
  | hazardRead {rest : List Input} {w : Nat} (hw : w < s.wmemWords)
      (hi : s.inputs = .host (regRead (0x10000 + 4 * w)) :: rest) (hbusy : s.run.isBusy = true) :
      Move s (State.readWmemBusy { s with inputs := rest })

/-- The one offset of a register; WMEM, reserved and unmapped offsets are ranges (R32). -/
def Target.registerOffset : Target → Option Nat
  | .cmd => some 0x000
  | .status => some 0x004
  | .err => some 0x008
  | .param => some 0x00C
  | .arg r => some (argOffset r)
  | .wmem _ | .reserved | .unmapped => none

/-- The register map read backwards: only one offset names a register (R32). -/
theorem offset_eq_of_targetOf {ww off reg : Nat} {t : Target} (h : targetOf ww off = t)
    (hreg : t.registerOffset = some reg) : off = reg := by
  subst h
  unfold targetOf at hreg
  split at hreg
  case h_11 =>
    split at hreg
    · cases hreg
    · split at hreg <;> cases hreg
  all_goals exact Option.some.inj hreg

/-- The offset of an operand register (R22, R32). -/
@[simp] theorem targetOf_argOffset (ww : Nat) (r : ArgReg) : targetOf ww (argOffset r) = .arg r := by
  cases r <;> rfl

/-- Every operand register has an aligned offset (R32, R51). -/
theorem argOffset_aligned (r : ArgReg) : argOffset r % 4 = 0 := by
  cases r <;> rfl

/-- The offset of STATUS (R23, R32). -/
@[simp] theorem targetOf_status (ww : Nat) : targetOf ww 0x004 = .status := rfl

/-- The offset of ERR (R24, R32). -/
@[simp] theorem targetOf_err (ww : Nat) : targetOf ww 0x008 = .err := rfl

/-! The branches of the host's writes and reads (R22, R24, R27, R255, R256). -/

variable {s : State}

theorem State.writeErr_of_idle (h : s.run = .idle) (v : Word) : s.writeErr v = { s with err := v } :=
  if_neg (by simp [h])

theorem State.writeErr_of_isBusy (h : s.run.isBusy = true) (v : Word) : s.writeErr v = s.setHaz := if_pos h

theorem State.writeArg_of_idle (h : s.run = .idle) (r : ArgReg) (v : Word) :
    s.writeArg r v = { s with arg := s.arg.set r v } :=
  if_neg (by simp [h])

theorem State.writeArg_of_isBusy (h : s.run.isBusy = true) (r : ArgReg) (v : Word) : s.writeArg r v = s.setHaz :=
  if_pos h

theorem State.writeWmem_of_idle (h : s.run = .idle) (w : Nat) (v : Word) :
    s.writeWmem w v = { s with wmem := s.wmem.set w v } :=
  if_neg (by simp [h])

theorem State.hostRead_wmem_of_idle (h : s.run = .idle) (w : Nat) :
    s.hostRead (.wmem w) = s.respond (some (s.readWord w)) :=
  if_neg (by simp [h])

/-- RUN is Idle or Busy (R30). -/
theorem Run.idle_or_isBusy (r : Run) : r = .idle ∨ r.isBusy = true := by
  cases r <;> simp

/-- A success of a command stores inside WMEM and inside the command's destination or in-place region: check 3 has
passed (R57, R80, R103, R109). -/
theorem exec_cases_inRange (i : Instr) (s : State) :
    (∃ c, exec i s = .next (s.completeError c)) ∨
    ∃ start ws, exec i s = .next (s.completeOk start ws) ∧
      ∀ x, start ≤ x ∧ x < start + ws.length →
        x < s.wmemWords ∧ ∃ d ∈ (footprint i s.operands).dest, InRegion d x := by
  cases hfirst : firstError s.wmemWords i s.operands with
  | some c => exact .inl ⟨c, exec_of_firstError_some hfirst⟩
  | none =>
    obtain ⟨-, hrange, -, -⟩ := firstError_eq_none.1 hfirst
    rw [rangeFails_eq_false] at hrange
    refine (exec_cases i s).imp_right fun ⟨start, ws, hexec, hdest⟩ => ⟨start, ws, hexec, fun x hx => ?_⟩
    obtain ⟨d, hd, hstart, hstop⟩ := hdest x hx
    have hfits := hrange d (List.mem_append_right _ (Option.mem_toList.2 hd))
    exact ⟨by omega, d, hd, hstart, hstop⟩

/-- The engine's turn is a move (R104, R105, R106, R237). -/
theorem move_of_engineTurn {t : State} {rest : List Input} (hnext : s.engineNext rest)
    (h : engineTurn { s with inputs := rest } = .next t) : Move s t := by
  cases hrun : s.run with
  | idle =>
    rw [engineTurn_idle (s := { s with inputs := rest }) hrun] at h
    cases h
    exact .engineIdle hnext hrun
  | busy c a e =>
    cases hdecode : decode c with
    | error r =>
      rw [engineTurn_illegal (s := { s with inputs := rest }) hrun hdecode] at h
      cases h
      exact .engineError _ hnext hrun
    | ok i =>
      rw [engineTurn_ok (s := { s with inputs := rest }) hrun hdecode] at h
      rcases exec_cases_inRange i { s with inputs := rest } with ⟨code, hexec⟩ | ⟨start, ws, hexec, hstored⟩
      · cases h.symm.trans hexec
        exact .engineError code hnext hrun
      · cases h.symm.trans hexec
        rw [State.operands_of_busy (s := { s with inputs := rest }) hrun] at hstored
        exact .engineOk start ws hnext hrun hdecode hstored

/-- A host write is a move (R22 to R27, R33, R254 to R256). -/
theorem move_of_hostWrite {off : Nat} {v : Word} {rest : List Input} (h4 : off % 4 = 0)
    (hi : s.inputs = .host (regWrite off v) :: rest) :
    Move s ((State.hostWrite { s with inputs := rest } (targetOf s.wmemWords off) v).respond none) := by
  cases htarget : targetOf s.wmemWords off with
  | cmd =>
    cases offset_eq_of_targetOf htarget rfl
    rw [State.hostWrite]
    rcases State.issue_cases { s with inputs := rest } v with ⟨hbusy, h⟩ | ⟨hidle, herr, h⟩ | ⟨hidle, herr, h⟩ <;>
      rw [h]
    · exact .overrun hi hbusy
    · exact .skip hi hidle herr
    · exact .accept hi hidle herr
  | status =>
    cases offset_eq_of_targetOf htarget rfl
    exact .writeStatus hi
  | err =>
    cases offset_eq_of_targetOf htarget rfl
    rw [State.hostWrite]
    rcases s.run.idle_or_isBusy with hidle | hbusy
    · rw [State.writeErr_of_idle (s := { s with inputs := rest }) hidle]
      exact .writeErr hi hidle
    · rw [State.writeErr_of_isBusy (s := { s with inputs := rest }) hbusy]
      exact .hazardWrite (.inl ⟨v, hi⟩) hbusy
  | arg r =>
    cases offset_eq_of_targetOf htarget rfl
    rw [State.hostWrite]
    rcases s.run.idle_or_isBusy with hidle | hbusy
    · rw [State.writeArg_of_idle (s := { s with inputs := rest }) hidle]
      exact .writeArg hi hidle
    · rw [State.writeArg_of_isBusy (s := { s with inputs := rest }) hbusy]
      exact .hazardWrite (.inr (.inl ⟨r, v, hi⟩)) hbusy
  | wmem w =>
    obtain ⟨hw, rfl⟩ := (targetOf_eq_wmem h4).1 htarget
    rw [State.hostWrite]
    rcases s.run.idle_or_isBusy with hidle | hbusy
    · rw [State.writeWmem_of_idle (s := { s with inputs := rest }) hidle]
      exact .writeWmem w hw hi hidle
    · rw [State.writeWmem_of_isBusy (s := { s with inputs := rest }) hbusy]
      exact .hazardWrite (.inr (.inr ⟨w, hw, v, hi⟩)) hbusy
  | param | reserved | unmapped => exact .ignored hi

/-- A host read is a move (R55, R256). -/
theorem move_of_hostRead {off : Nat} {rest : List Input} (h4 : off % 4 = 0)
    (hi : s.inputs = .host (regRead off) :: rest) :
    Move s (State.hostRead { s with inputs := rest } (targetOf s.wmemWords off)) := by
  cases htarget : targetOf s.wmemWords off with
  | wmem w =>
    obtain ⟨hw, rfl⟩ := (targetOf_eq_wmem h4).1 htarget
    rcases s.run.idle_or_isBusy with hidle | hbusy
    · rw [State.hostRead_wmem_of_idle (s := { s with inputs := rest }) hidle]
      exact .read _ hi
    · rw [State.hostRead_wmem_of_isBusy (s := { s with inputs := rest }) hbusy]
      exact .hazardRead hw hi hbusy
  | cmd | status | err | param | arg r | reserved | unmapped => exact .read _ hi

/-- Every step that answers a next state is a move. -/
theorem move_of_step {t : State} (h : step s = .next t) : Move s t := by
  rcases step_cases s with ⟨hi, hstep⟩ | ⟨rest, hi, hstep⟩ | ⟨rest, hi, hstep⟩ | ⟨txn, rest, hi, hstep⟩
  · have hnext : s.engineNext [] := .inr ⟨hi, rfl⟩
    exact move_of_engineTurn hnext ((step_of_engineNext hnext).symm.trans h)
  · have hnext : s.engineNext rest := .inl hi
    exact move_of_engineTurn hnext (hstep.symm.trans h)
  · cases h.symm.trans hstep
    exact .reset hi
  · obtain ⟨width, off, op⟩ := txn
    by_cases hwf : Txn.wellFormed ⟨width, off, op⟩
    · obtain ⟨rfl, h4⟩ := hwf
      cases op with
      | read =>
        cases h.symm.trans (step_regRead hi h4)
        exact move_of_hostRead h4 hi
      | write v =>
        cases h.symm.trans (step_regWrite hi h4)
        exact move_of_hostWrite h4 hi
    · rw [hstep, hostTransaction_refused hwf] at h
      cases h

end Sys2Proof.Machine
end

section
/-! PROOFS. The invariant (00_scope.md R8, 10_state.md R30): what keeps it, and that every step does. -/

namespace Sys2Proof.Machine

open Sys2Proof.Statement

variable {s t : State}

/-- A state with the same WMEM and registers, but for OVR and HAZ, is as sound (R23, R30). -/
theorem State.Inv.of_same (hinv : s.Inv) (hwmem : t.wmem = s.wmem) (hparam : t.param = s.param) (hrun : t.run = s.run)
    (hcmd : t.cmd = s.cmd) (harg : t.arg = s.arg) (herr : t.err = s.err) (hdone : t.status.done = s.status.done) :
    t.Inv := by
  obtain ⟨hcanonical, hexists, hsize, hmatch⟩ := hinv
  have hwords : t.wmemWords = s.wmemWords := congrArg BitVec.toNat hparam
  refine ⟨hwmem ▸ hcanonical, ?_, hwords ▸ hsize, ?_⟩
  · rw [hwmem, hwords]
    exact hexists
  · rw [State.runConsistent, hrun, hcmd, harg, herr, hdone]
    exact hmatch

/-- In an idle state RUN promises nothing, so only WMEM and its size count (R8, R30). -/
theorem State.Inv.of_idle (hinv : s.Inv) (hparam : t.param = s.param) (hidle : t.run = .idle)
    (hcanonical : Memory.wf t.wmem) (hexists : ∀ p ∈ t.wmem, p.1 < s.wmemWords) : t.Inv := by
  have hwords : t.wmemWords = s.wmemWords := congrArg BitVec.toNat hparam
  refine ⟨hcanonical, hwords ▸ hexists, hwords ▸ hinv.sizeLegal, ?_⟩
  rw [State.runConsistent, hidle]
  trivial

/-- Words stored inside WMEM keep the invariant of a state that is idle afterwards (R12, R109). -/
theorem State.Inv.of_writeList (hinv : s.Inv) {start : Nat} {ws : List Word}
    (hstored : ∀ x, start ≤ x ∧ x < start + ws.length → x < s.wmemWords) (hparam : t.param = s.param)
    (hidle : t.run = .idle) (hwmem : t.wmem = s.wmem.writeList start ws) : t.Inv := by
  refine hinv.of_idle hparam hidle ?_ fun p hp => ?_ <;> rw [hwmem] at *
  · exact Memory.writeList_wf hinv.wmemCanonical start ws
  · exact (Memory.mem_writeList hp).elim (hstored p.1) (hinv.wmemExists p)

/-- What a reset loses while a command runs is a part of the command's destination or in-place region, and of WMEM
(R251; log 5). -/
theorem State.abandonedRegion_subset {x : Nat} (hx : InRegion s.abandonedRegion x) :
    x < s.wmemWords ∧ ∃ c a e i d, s.run = .busy c a e ∧ decode c = .ok i ∧ (footprint i a).dest = some d ∧
      InRegion d x := by
  have hempty : ¬InRegion ⟨0, 0⟩ x := fun ⟨_, h⟩ => Nat.not_lt_zero x h
  unfold State.abandonedRegion at hx
  split at hx
  · exact absurd hx hempty
  · next c a e hrun =>
    split at hx
    · exact absurd hx hempty
    · next i hdecode =>
      split at hx
      · exact absurd hx hempty
      · next d hdest =>
        obtain ⟨hstart, hstop⟩ := hx
        dsimp only at hstart hstop
        exact ⟨by omega, c, a, e, i, d, hrun, hdecode, hdest, hstart, by omega⟩

/-- Every move keeps the invariant. -/
theorem State.Inv.of_move (hinv : s.Inv) (hmove : Move s t) : t.Inv := by
  cases hmove with
  | engineOk start ws _ _ _ hstored => exact hinv.of_writeList (fun x hx => (hstored x hx).1) rfl rfl rfl
  | reset =>
    refine hinv.of_writeList (fun x hx => ?_) rfl rfl rfl
    rw [length_freeWords] at hx
    exact (State.abandonedRegion_subset hx).1
  | engineError => exact hinv.of_idle rfl rfl hinv.wmemCanonical hinv.wmemExists
  | skip _ hidle | writeErr _ hidle | writeArg _ hidle =>
    exact hinv.of_idle rfl hidle hinv.wmemCanonical hinv.wmemExists
  | writeWmem w hw _ hidle =>
    refine hinv.of_idle rfl hidle (Memory.set_wf hinv.wmemCanonical _ _) fun p hp => ?_
    rcases Memory.mem_set hp with rfl | hp
    · exact hw
    · exact hinv.wmemExists p hp
  | accept _ _ herr => exact ⟨hinv.wmemCanonical, hinv.wmemExists, hinv.sizeLegal, rfl, rfl, rfl, herr, rfl⟩
  | engineIdle | overrun | writeStatus | hazardWrite | ignored | read | hazardRead =>
    exact hinv.of_same rfl rfl rfl rfl rfl rfl rfl

/-- Settles O22: every step that answers a next state is a move, and moves keep the invariant. -/
theorem everyStepKeepsTheInvariant : Obligations.EveryStepKeepsTheInvariant :=
  fun _ _ hinv hstep => hinv.of_move (move_of_step hstep)

/-- Settles O21: after power-on reset WMEM lists nothing, 8192 is a legal size and RUN is Idle (R8, R31; log 3). -/
theorem invariantHoldsAtReset : Obligations.InvariantHoldsAtReset where
  wmemCanonical := State.reset_wmem_wf
  wmemExists := fun _ hp => absurd hp List.not_mem_nil
  sizeLegal := by decide
  runMatches := trivial

end Sys2Proof.Machine
end

section
/-! PROOFS. What each part of the state can change by (10_state.md R22 to R30, 70_reset_and_hazards.md R250 to R257):
the constructors of `Move` that do not touch the part are closed together, the others give the events that the
statement names. -/

namespace Sys2Proof.Machine

open Sys2Proof.Statement

/-- An ERR word that is no error is not negative (R220). -/
theorem isError_eq_false_iff {e : Word} : isError e = false ↔ 0 ≤ e.toInt := by
  simp [isError]

/-- Settles O23: RUN changes by acceptance, by the two completions and by a reset (R30). -/
theorem runChangesOnlyAsStated : Obligations.RunChangesOnlyAsStated := by
  intro s t hstep hne
  cases move_of_step hstep with
  | accept hi hidle herr => exact .inl ⟨_, _, hidle, hi, isError_eq_false_iff.1 herr, rfl⟩
  | engineError _ hnext hbusy | engineOk _ _ hnext hbusy =>
    exact .inr (.inl ⟨⟨_, _, _, hbusy⟩, hnext.pending, rfl, rfl⟩)
  | reset hi => exact .inr (.inr ⟨⟨_, hi⟩, rfl⟩)
  | _ => exact absurd rfl hne

/-- No move changes PARAM (R25). -/
theorem Move.param_eq {s t : State} (hmove : Move s t) : t.param = s.param := by
  cases hmove <;> rfl

/-- Settles O24: ARG and ERR each have one host write that changes them, and ERR a completion as well (R22, R24, R25).
-/
theorem argErrAndParamChangeOnlyAsStated : Obligations.ArgErrAndParamChangeOnlyAsStated := by
  intro s t hstep
  have hmove := move_of_step hstep
  refine ⟨hmove.param_eq, fun hne => ?_, fun hne => ?_⟩
  · cases hmove with
    | writeArg hi hidle => exact .inl ⟨hidle, _, _, _, hi⟩
    | reset hi => exact .inr ⟨_, hi⟩
    | _ => exact absurd rfl hne
  · cases hmove with
    | writeErr hi hidle => exact .inl ⟨hidle, _, _, hi⟩
    | engineError _ hnext hbusy => exact .inr (.inl ⟨⟨_, _, _, hbusy⟩, hnext.pending⟩)
    | reset hi => exact .inr (.inr ⟨_, hi⟩)
    | _ => exact absurd rfl hne

/-- Settles O25: OVR and HAZ are set by the three moves that need Busy, cleared by a STATUS write and a reset, and
kept by the others (R254 to R257). -/
theorem ovrAndHazOnlyByMisuse : Obligations.OvrAndHazOnlyByMisuse := by
  intro s t hstep
  refine ⟨fun hovr => ?_, fun hhaz => ?_⟩
  · cases move_of_step hstep with
    | overrun hi hbusy => exact .inr ⟨Run.isBusy_eq_true.1 hbusy, _, _, hi⟩
    | writeStatus => exact .inl (Bool.and_elim_left hovr)
    | reset => cases hovr
    | _ => exact .inl hovr
  · cases move_of_step hstep with
    | hazardWrite hi hbusy =>
      refine .inr ⟨Run.isBusy_eq_true.1 hbusy, ?_⟩
      rcases hi with ⟨v, hi⟩ | ⟨r, v, hi⟩ | ⟨w, hw, v, hi⟩
      · exact .inl ⟨v, _, hi⟩
      · exact .inr (.inl ⟨r, v, _, hi⟩)
      · exact .inr (.inr ⟨w, hw, .inl ⟨v, _, hi⟩⟩)
    | hazardRead hw hi hbusy =>
      exact .inr ⟨Run.isBusy_eq_true.1 hbusy, .inr (.inr ⟨_, hw, .inr ⟨_, hi⟩⟩)⟩
    | writeStatus => exact .inl (Bool.and_elim_left hhaz)
    | reset => cases hhaz
    | _ => exact .inl hhaz

/-- A stored list changes no word outside its addresses (R57). -/
theorem State.inRegion_of_readWord_writeList_ne {s : State} {start x : Nat} {ws : List Word}
    (hne : State.readWord { s with wmem := s.wmem.writeList start ws } x ≠ s.readWord x) :
    InRegion ⟨start, ws.length⟩ x := by
  by_contra hout
  apply hne
  apply State.readWord_writeList_outside
  simp only [InRegion] at hout
  omega

/-- A reset changes no word outside the abandoned region (R251, R252). -/
theorem State.inRegion_of_readWord_hardReset_ne {s : State} {x : Nat}
    (hne : s.hardReset.readWord x ≠ s.readWord x) : InRegion s.abandonedRegion x := by
  have h := State.inRegion_of_readWord_writeList_ne hne
  rwa [length_freeWords] at h

/-- Settles O26: WMEM changes by a host write while Idle, by the words of a success, and by a reset (R27, R57, R251).
-/
theorem wmemChangesOnlyAsStated : Obligations.WmemChangesOnlyAsStated := by
  intro s t x hstep hne
  cases move_of_step hstep with
  | writeWmem w hw hi hidle =>
    by_cases hx : x = w
    · subst hx
      exact .inl ⟨hidle, hw, _, _, hi⟩
    · exact absurd (State.readWord_set_ne s hx _) hne
  | engineOk start ws hnext hbusy hdecode hstored =>
    obtain ⟨-, d, hdest, hx⟩ := hstored x (State.inRegion_of_readWord_writeList_ne (s := s) hne)
    exact .inr ⟨_, _, _, _, d, hbusy, hdecode, hdest, hx, hnext.pending.imp_right .inl⟩
  | reset hi =>
    obtain ⟨-, c, a, e, i, d, hrun, hdecode, hdest, hx⟩ :=
      State.abandonedRegion_subset (State.inRegion_of_readWord_hardReset_ne hne)
    exact .inr ⟨c, a, e, i, d, hrun, hdecode, hdest, hx, .inr (.inr ⟨_, hi⟩)⟩
  | _ => exact absurd rfl hne

/-- Settles O20: a word that a reset changes lies in the region of a running command, so none does while Idle (R251,
R252). -/
theorem resetLosesOnlyTheRunningRegion : Obligations.ResetLosesOnlyTheRunningRegion := by
  intro s t rest hi hstep x
  cases hstep.symm.trans (step_reset hi)
  have hlost (hne : State.readWord (State.hardReset { s with inputs := rest }) x ≠ s.readWord x) :=
    (State.abandonedRegion_subset (State.inRegion_of_readWord_hardReset_ne hne)).2
  refine ⟨fun hidle => ?_, fun c a e hrun hout => ?_⟩ <;> by_contra hne
  · obtain ⟨c, a, e, -, -, hrun, -⟩ := hlost hne
    cases hidle.symm.trans hrun
  · obtain ⟨c', a', e', i, d, hrun', hdecode, hdest, hx⟩ := hlost hne
    cases hrun.symm.trans hrun'
    exact hout i d hdecode hdest hx

end Sys2Proof.Machine
end

section
/-! PROOFS. The engine's turn (40_command_execution.md R73, R103 to R108) and the refusals (20_memory.md R51). -/

namespace Sys2Proof.Machine

open Sys2Proof.Statement

variable {s : State}

/-- The engine's turn completes the running command, legal or not (R104 to R106). -/
theorem engineTurn_of_isBusy (hbusy : s.run.isBusy = true) :
    (∃ code, engineTurn s = .next (s.completeError code)) ∨
    ∃ start ws, engineTurn s = .next (s.completeOk start ws) := by
  obtain ⟨c, a, e, hrun⟩ := Run.isBusy_eq_true.1 hbusy
  cases hdecode : decode c with
  | error r => exact .inl ⟨_, engineTurn_illegal hrun hdecode⟩
  | ok i =>
    rw [engineTurn_ok hrun hdecode]
    exact (exec_cases i s).imp_right fun ⟨start, ws, hexec, _⟩ => ⟨start, ws, hexec⟩

/-- The engine's turn always answers a next state (R237, 93_implementation_defined.md Part 1). -/
theorem exists_engineTurn_eq_next (s : State) : ∃ t, engineTurn s = .next t := by
  rcases s.run.idle_or_isBusy with hidle | hbusy
  · exact ⟨_, engineTurn_idle hidle⟩
  · rcases engineTurn_of_isBusy hbusy with ⟨_, h⟩ | ⟨_, _, h⟩ <;> exact ⟨_, h⟩

/-- Settles O6: either completion leaves RUN Idle and DONE 1, and neither touches OVR, HAZ, CMD or ARG (R104, R107).
-/
theorem acceptedCommandCompletes : Obligations.AcceptedCommandCompletes := by
  intro s c a e hrun hturn
  obtain ⟨rest, hnext⟩ := State.exists_engineNext hturn
  rw [step_of_engineNext hnext]
  rcases engineTurn_of_isBusy (s := { s with inputs := rest }) (State.isBusy_of_run hrun) with
    ⟨code, h⟩ | ⟨start, ws, h⟩ <;>
    exact ⟨_, h, rfl, rfl, rfl, rfl⟩

/-- A word that the encoder writes for no command is rejected (R73). -/
theorem exists_decode_eq_error {c : Word} (h : ∀ i, c ≠ encode i) : ∃ r, decode c = .error r := by
  cases hdecode : decode c with
  | error r => exact ⟨r, rfl⟩
  | ok i => exact absurd (decode_eq_ok_iff.1 hdecode) (h i)

/-- Settles O4: the decoder rejects the word, and the engine's turn raises ILLEGAL_COMMAND, −16 (R73, R105). -/
theorem illegalWordRaisesIllegalCommand : Obligations.IllegalWordRaisesIllegalCommand := by
  intro s c a e rest hrun hillegal hnext
  obtain ⟨r, hdecode⟩ := exists_decode_eq_error hillegal
  rw [step_of_engineNext hnext, engineTurn_illegal (s := { s with inputs := rest }) hrun hdecode]
  rfl

/-- Settles O5: both ways in which the engine moves next lead to the meaning of the decoded command (R104, R108). -/
theorem engineTurnRunsDecodedCommand : Obligations.EngineTurnRunsDecodedCommand := by
  intro s c a e i hrun hdecode _
  refine ⟨fun rest hi => ?_, fun hi => ?_⟩
  · rw [step_of_engineNext (.inl hi), engineTurn_ok (s := { s with inputs := rest }) hrun hdecode]
  · rw [step, hi, ← engineTurn_ok hrun hdecode]

/-- A transaction is refused exactly when it is not of the interface (R51). -/
theorem hostTransaction_eq_refused_iff {txn : Txn} {r : Refusal} :
    hostTransaction txn s = .refused r ↔ r = .hostProtocolViolation ∧ ¬txn.wellFormed := by
  by_cases hwf : txn.wellFormed
  · cases hop : txn.op with
    | read => simp [hostTransaction_read hwf hop, hwf]
    | write v => simp [hostTransaction_write hwf hop, hwf]
  · simp [hostTransaction_refused hwf, hwf, eq_comm]

/-- Settles O9: the engine and the reset never refuse, and the type of faults is empty (R51). -/
theorem malformedTransactionsAreTheOnlyRefusals : Obligations.MalformedTransactionsAreTheOnlyRefusals := by
  refine ⟨fun s r => ⟨fun hrefused => ?_, ?_⟩, fun _ f => nomatch f⟩
  · rcases step_cases s with ⟨_, hstep⟩ | ⟨rest, _, hstep⟩ | ⟨rest, _, hstep⟩ | ⟨txn, rest, hi, hstep⟩ <;>
      rw [hstep] at hrefused
    · obtain ⟨t, ht⟩ := exists_engineTurn_eq_next s
      cases ht.symm.trans hrefused
    · obtain ⟨t, ht⟩ := exists_engineTurn_eq_next { s with inputs := rest }
      cases ht.symm.trans hrefused
    · cases hrefused
    · obtain ⟨hr, hwf⟩ := hostTransaction_eq_refused_iff.1 hrefused
      exact ⟨hr, txn, rest, hi, hwf⟩
  · rintro ⟨rfl, txn, rest, hi, hwf⟩
    simp only [step, hi]
    exact hostTransaction_refused hwf _

end Sys2Proof.Machine
end

section
/-! PROOFS. The host's transactions on each register, one step rule for each kind of access (10_state.md R22 to R33,
40_command_execution.md R100 to R102, 70_reset_and_hazards.md R255). -/

namespace Sys2Proof.Machine

open Sys2Proof.Statement

variable {s : State} {v : Word} {rest : List Input}

/-- An ERR word that is an error is negative (R220). -/
theorem isError_eq_true_iff {e : Word} : isError e = true ↔ e.toInt < 0 := by
  simp [isError]

/-- A write to CMD while Idle with ERR negative skips the command (R101). -/
theorem step_writeCmd_of_isError (hi : s.inputs = .host (regWrite 0x000 v) :: rest) (hidle : s.run = .idle)
    (herr : isError s.err = true) :
    step s = .next { s with inputs := rest, response := none, cmd := v, status := { s.status with done := true } } := by
  rw [step_regWrite hi rfl, targetOf_cmd, State.hostWrite, State.issue, if_neg (by simp [hidle]), if_pos herr]
  rfl

/-- A write to CMD while Idle with ERR not negative accepts the command (R102). -/
theorem step_writeCmd_of_not_isError (hi : s.inputs = .host (regWrite 0x000 v) :: rest) (hidle : s.run = .idle)
    (herr : isError s.err = false) :
    step s = .next { s with inputs := rest, response := none, cmd := v, run := .busy v s.arg s.err,
                            status := { s.status with done := false } } := by
  rw [step_regWrite hi rfl, targetOf_cmd, State.hostWrite, State.issue, if_neg (by simp [hidle]),
    if_neg (by simp [herr])]
  rfl

/-- A write to ERR while Idle (R24). -/
theorem step_writeErr_of_idle (hi : s.inputs = .host (regWrite 0x008 v) :: rest) (hidle : s.run = .idle) :
    step s = .next { s with inputs := rest, response := none, err := v } := by
  rw [step_regWrite hi rfl, targetOf_err, State.hostWrite,
    State.writeErr_of_idle (s := { s with inputs := rest }) hidle]
  rfl

/-- A write to ERR while Busy sets HAZ alone (R255). -/
theorem step_writeErr_of_isBusy (hi : s.inputs = .host (regWrite 0x008 v) :: rest) (hbusy : s.run.isBusy = true) :
    step s = .next { s with inputs := rest, response := none, status := { s.status with haz := true } } := by
  rw [step_regWrite hi rfl, targetOf_err, State.hostWrite,
    State.writeErr_of_isBusy (s := { s with inputs := rest }) hbusy]
  rfl

/-- A write to an operand register while Idle (R22). -/
theorem step_writeArg_of_idle {r : ArgReg} (hi : s.inputs = .host (regWrite (argOffset r) v) :: rest)
    (hidle : s.run = .idle) :
    step s = .next { s with inputs := rest, response := none, arg := s.arg.set r v } := by
  rw [step_regWrite hi (argOffset_aligned r), targetOf_argOffset, State.hostWrite,
    State.writeArg_of_idle (s := { s with inputs := rest }) hidle]
  rfl

/-- A write to an operand register while Busy sets HAZ alone (R255). -/
theorem step_writeArg_of_isBusy {r : ArgReg} (hi : s.inputs = .host (regWrite (argOffset r) v) :: rest)
    (hbusy : s.run.isBusy = true) :
    step s = .next { s with inputs := rest, response := none, status := { s.status with haz := true } } := by
  rw [step_regWrite hi (argOffset_aligned r), targetOf_argOffset, State.hostWrite,
    State.writeArg_of_isBusy (s := { s with inputs := rest }) hbusy]
  rfl

/-- A write to a WMEM word while Idle (R27). -/
theorem step_writeWmem_of_idle {w : Nat} (hw : w < s.wmemWords)
    (hi : s.inputs = .host (regWrite (0x10000 + 4 * w) v) :: rest) (hidle : s.run = .idle) :
    step s = .next { s with inputs := rest, response := none, wmem := s.wmem.set w v } := by
  rw [step_regWrite hi (aperture_aligned w), targetOf_aperture hw, State.hostWrite,
    State.writeWmem_of_idle (s := { s with inputs := rest }) hidle]
  rfl

/-- A write to STATUS clears OVR and HAZ by its bits 2 and 3, whatever RUN is (R23). -/
theorem step_writeStatus (hi : s.inputs = .host (regWrite 0x004 v) :: rest) :
    step s = .next { s with inputs := rest, response := none, status := s.status.writeOneToClear v } := by
  rw [step_regWrite hi rfl, targetOf_status]
  rfl

/-- A read of STATUS, whatever RUN is (R23). -/
theorem step_readStatus (hi : s.inputs = .host (regRead 0x004) :: rest) :
    step s = .next { s with inputs := rest, response := some (statusWord s.run s.status) } := by
  rw [step_regRead hi rfl, targetOf_status]
  rfl

/-- A read of ERR, whatever RUN is (R24, R255). -/
theorem step_readErr (hi : s.inputs = .host (regRead 0x008) :: rest) :
    step s = .next { s with inputs := rest, response := some s.err } := by
  rw [step_regRead hi rfl, targetOf_err]
  rfl

/-- A read of an operand register, whatever RUN is (R22, R255). -/
theorem step_readArg {r : ArgReg} (hi : s.inputs = .host (regRead (argOffset r)) :: rest) :
    step s = .next { s with inputs := rest, response := some (s.arg.get r) } := by
  rw [step_regRead hi (argOffset_aligned r), targetOf_argOffset]
  rfl

/-- A read of a WMEM word while Idle (R27). -/
theorem step_readWmem_of_idle {w : Nat} (hw : w < s.wmemWords)
    (hi : s.inputs = .host (regRead (0x10000 + 4 * w)) :: rest) (hidle : s.run = .idle) :
    step s = .next { s with inputs := rest, response := some (s.readWord w) } := by
  rw [step_regRead hi (aperture_aligned w), targetOf_aperture hw,
    State.hostRead_wmem_of_idle (s := { s with inputs := rest }) hidle]
  rfl

/-- Settles O11: ERR negative is the error test of the issue (R100, R101). -/
theorem negativeErrSkipsTheCommand : Obligations.NegativeErrSkipsTheCommand :=
  fun _ _ _ hidle hneg hi => step_writeCmd_of_isError hi hidle (isError_eq_true_iff.2 hneg)

/-- Settles O12: ERR zero or positive passes the error test of the issue (R100, R102). -/
theorem nonNegativeErrAcceptsTheCommand : Obligations.NonNegativeErrAcceptsTheCommand :=
  fun _ _ _ hidle hnonneg hi => step_writeCmd_of_not_isError hi hidle (isError_eq_false_iff.2 hnonneg)

/-- Settles O13: writes have their Busy rule, reads do not look at RUN, and the invariant ties the registers to RUN
(R255). -/
theorem registerAccessWhileBusy : Obligations.RegisterAccessWhileBusy := by
  intro s c a e rest hrun
  have hbusy := State.isBusy_of_run hrun
  refine ⟨fun v hwrite => ?_, step_readErr, fun r => step_readArg, fun hinv => ?_⟩
  · rcases hwrite with hi | ⟨r, hi⟩
    · exact step_writeErr_of_isBusy hi hbusy
    · exact step_writeArg_of_isBusy hi hbusy
  · obtain ⟨-, harg, herr, -⟩ := hinv.registers_of_busy hrun
    exact ⟨harg.symm, herr.symm⟩

/-- BUSY and DONE are never 1 together in a sound state (R23, R102). -/
theorem State.Inv.done_of_isBusy (hinv : s.Inv) (hbusy : s.run.isBusy = true) : s.status.done = false := by
  obtain ⟨c, a, e, hrun⟩ := Run.isBusy_eq_true.1 hbusy
  obtain ⟨-, -, -, -, hdone⟩ := hinv.registers_of_busy hrun
  exact hdone

/-- Settles O15: the word that a read returns is the STATUS word, bit by bit (R23). -/
theorem statusRegisterBits : Obligations.StatusRegisterBits := by
  intro s rest
  refine ⟨fun hread => ⟨_, step_readStatus hread, ?_⟩, fun v hwrite => step_writeStatus hwrite⟩
  simp only [getLsbD_statusWord]
  refine ⟨Run.isBusy_eq_true, rfl, rfl, rfl, fun k hk => ?_, fun hinv ⟨hbusy, hdone⟩ => ?_⟩
  · rw [if_neg, if_neg, if_neg, if_neg] <;> omega
  · cases hdone.symm.trans (hinv.done_of_isBusy hbusy)

/-- Settles O16: both kinds of offset name a target that no access changes and that reads as zero (R33). -/
theorem reservedOffsetsReadZero : Obligations.ReservedOffsetsReadZero := by
  intro s off rest h4 hoff
  have htarget : targetOf s.wmemWords off = .reserved ∨ targetOf s.wmemWords off = .unmapped :=
    hoff.imp (fun ⟨hmin, hmax⟩ => targetOf_reserved h4 hmin hmax) targetOf_unmapped
  refine ⟨fun hread => ?_, fun v hwrite => ?_⟩
  · rw [step_regRead hread h4]
    rcases htarget with h | h <;> rw [h] <;> rfl
  · rw [step_regWrite hwrite h4]
    rcases htarget with h | h <;> rw [h] <;> rfl

/-- Two steps that answer a next state are a run of two. -/
theorem run_two {t u : State} (hfirst : step s = .next t) (hsecond : step t = .next u) :
    Host.Core.run core 2 s = .next u := by
  have hfirst : core.step s = .next t := hfirst
  have hsecond : core.step t = .next u := hsecond
  simp only [Host.Core.run, hfirst, hsecond]

/-- Settles O18: the read meets the state that the write left (R22, R24, R27). -/
theorem idleWritesReadBack : Obligations.IdleWritesReadBack := by
  intro s v rest hidle
  refine ⟨fun r hi => ?_, fun hi => ?_, fun w hw hi => ?_⟩
  · rw [run_two (step_writeArg_of_idle hi hidle) (step_readArg rfl), Args.get_set_self]
  · exact run_two (step_writeErr_of_idle hi hidle) (step_readErr rfl)
  · have hvalue := State.readWord_set_self s w v
    have hrun := run_two (step_writeWmem_of_idle hw hi hidle) (step_readWmem_of_idle hw rfl hidle)
    refine ⟨_, hrun, ?_, hvalue, fun a ha => State.readWord_set_ne s ha v⟩
    exact congrArg (fun x => { s with inputs := rest, response := some x, wmem := s.wmem.set w v }) hvalue

/-- A write to CMD while Idle is remembered, accepted or skipped (R26, R100). -/
theorem exists_step_writeCmd_of_idle (hi : s.inputs = .host (regWrite 0x000 v) :: rest) (hidle : s.run = .idle) :
    ∃ t, step s = .next t ∧ t.cmd = v := by
  cases herr : isError s.err
  · exact ⟨_, step_writeCmd_of_not_isError hi hidle herr, rfl⟩
  · exact ⟨_, step_writeCmd_of_isError hi hidle herr, rfl⟩

/-- Settles O60: each read has its step rule, and only three moves change CMD (R26). -/
theorem idleReadsReturnTheValues : Obligations.IdleReadsReturnTheValues := by
  refine ⟨fun s rest hidle => ⟨step_readCmd, step_readErr, fun r => step_readArg,
    fun w hw hi => step_readWmem_of_idle hw hi hidle, fun v hi => exists_step_writeCmd_of_idle hi hidle⟩,
    fun s t hstep hne => ?_⟩
  cases move_of_step hstep with
  | skip hi hidle | accept hi hidle => exact .inl ⟨hidle, _, _, hi, rfl⟩
  | reset hi => exact .inr ⟨⟨_, hi⟩, rfl⟩
  | _ => exact absurd rfl hne

end Sys2Proof.Machine
end

section
/-! PROOFS. The error chain (60_exceptions.md R227): with ERR negative, CMD writes and engine turns change CMD and
DONE alone. -/

namespace Sys2Proof.Machine

/-- `t` is `s` but for CMD, DONE, the pending inputs and the response. -/
def State.sameButCmdDone (s t : State) : Prop :=
  ∃ cmd done inputs response,
    t = { s with cmd := cmd, status := { s.status with done := done }, inputs := inputs, response := response }

theorem State.sameButCmdDone.refl (s : State) : s.sameButCmdDone s := ⟨_, _, _, _, rfl⟩

theorem State.sameButCmdDone.trans {s t u : State} (hst : s.sameButCmdDone t) (htu : t.sameButCmdDone u) :
    s.sameButCmdDone u := by
  obtain ⟨_, _, _, _, rfl⟩ := hst
  obtain ⟨_, _, _, _, rfl⟩ := htu
  exact ⟨_, _, _, _, rfl⟩

/-- The inputs of an error chain: CMD writes and engine turns. -/
def issuesOnly (inputs : List Input) : Prop := ∀ x ∈ inputs, x = .engine ∨ ∃ v, x = .host (regWrite 0x000 v)

/-- One step of an error chain (R101, R237). -/
theorem step_errorChain {s : State} (hidle : s.run = .idle) (herr : isError s.err = true)
    (hinputs : issuesOnly s.inputs) : ∃ t, step s = .next t ∧ s.sameButCmdDone t ∧ issuesOnly t.inputs := by
  cases hi : s.inputs with
  | nil =>
    have hnext : s.engineNext [] := .inr ⟨hi, rfl⟩
    exact ⟨_, (step_of_engineNext hnext).trans (engineTurn_idle hidle), ⟨_, _, _, _, rfl⟩, fun _ h => nomatch h⟩
  | cons x rest =>
    rw [hi] at hinputs
    obtain ⟨hx, hrest⟩ := List.forall_mem_cons.1 hinputs
    rcases hx with rfl | ⟨v, rfl⟩
    · exact ⟨_, (step_of_engineNext (.inl hi)).trans (engineTurn_idle hidle), ⟨_, _, _, _, rfl⟩, hrest⟩
    · exact ⟨_, step_writeCmd_of_isError hi hidle herr, ⟨_, _, _, _, rfl⟩, hrest⟩

/-- Any number of steps of an error chain. -/
theorem run_errorChain {k : Nat} {s t : State} (hidle : s.run = .idle) (herr : isError s.err = true)
    (hinputs : issuesOnly s.inputs) (hrun : Host.Core.run core k s = .next t) : s.sameButCmdDone t := by
  induction k generalizing s with
  | zero =>
    cases hrun
    exact .refl _
  | succ k ih =>
    obtain ⟨u, hstep, hframe, hrest⟩ := step_errorChain hidle herr hinputs
    have hstep : core.step s = .next u := hstep
    simp only [Host.Core.run, hstep] at hrun
    have hidle' : u.run = .idle := by
      obtain ⟨_, _, _, _, rfl⟩ := hframe
      exact hidle
    have herr' : isError u.err = true := by
      obtain ⟨_, _, _, _, rfl⟩ := hframe
      exact herr
    exact hframe.trans (ih hidle' herr' hrest hrun)

/-- Settles O27: the frame holds for each step and is transitive (R101, R227). -/
theorem errorChainLeavesStateAlone : Obligations.ErrorChainLeavesStateAlone := by
  intro k s t hidle hneg hinputs hrun
  obtain ⟨_, _, _, _, rfl⟩ := run_errorChain hidle (isError_eq_true_iff.2 hneg) hinputs hrun
  rfl

end Sys2Proof.Machine
end

section
/-! PROOFS. The fields of a command word (30_encoding.md R70, R73): a word is its fields, and the legal fields are
those of the sixteen commands. -/

namespace Sys2Proof

/-- The word of a word's fields is that word: the five fields cover its 32 bits (R70). -/
theorem wordOfFields_fieldsOfWord (w : Word) : wordOfFields (fieldsOfWord w) = w := by
  apply BitVec.eq_of_getLsbD_eq
  intro k hk
  simp only [wordOfFields, fieldsOfWord, BitVec.getLsbD_or, BitVec.getLsbD_shiftLeft, BitVec.getLsbD_setWidth,
    BitVec.getLsbD_extractLsb']
  interval_cases k <;> simp

/-- Every command has legal fields (R72, R73). -/
theorem Instr.fields_wellFormed (i : Instr) : i.fields.wellFormed = true := by
  cases i <;> decide

/-- Encoding writes the fields of the command's row (R70, R72). -/
theorem fieldsOfWord_encode (i : Instr) : fieldsOfWord (encode i) = i.fields := by
  cases i <;> decide

theorem CmdFields.wellFormed_iff {f : CmdFields} :
    f.wellFormed = true ↔ f.opKnown = true ∧ f.algKnown = true ∧ f.algAllowed = true ∧ f.compAllowed = true ∧
      f.reservedClear = true := by
  simp [CmdFields.wellFormed, and_assoc]

/-- Legal fields are a row of the table: ALG chooses between two commands for PMUL and PMULU, COMP for MMUL and MPOW
(R72, R73). -/
theorem CmdFields.exists_eq_fields {f : CmdFields} (h : f.wellFormed = true) : ∃ i : Instr, f = i.fields := by
  obtain ⟨hop, halg, halgAllowed, hcompAllowed, hreserved⟩ := CmdFields.wellFormed_iff.1 h
  obtain ⟨op, alg, rsvdLow, comp, rsvdHigh⟩ := f
  have hcomp : ∀ c : BitVec 1, c = 0#1 ∨ c = 1#1 := by decide
  simp only [CmdFields.opKnown, CmdFields.algKnown, CmdFields.algAllowed, CmdFields.compAllowed,
    CmdFields.reservedClear, List.contains_iff_mem, List.mem_cons, List.not_mem_nil, or_false, Bool.or_eq_true,
    Bool.and_eq_true, beq_iff_eq] at hop halg halgAllowed hcompAllowed hreserved
  obtain ⟨rfl, rfl⟩ := hreserved
  rcases hop with rfl | rfl | rfl | rfl | rfl | rfl | rfl | rfl | rfl | rfl | rfl | rfl
  · exact ⟨.nop, by simp_all [Instr.fields]⟩
  · exact ⟨.clmul32, by simp_all [Instr.fields]⟩
  · rcases halg with rfl | rfl
    · exact ⟨.pmulGs, by simp_all [Instr.fields]⟩
    · exact ⟨.pmulKa, by simp_all [Instr.fields]⟩
  · rcases halg with rfl | rfl
    · exact ⟨.pmuluGs, by simp_all [Instr.fields]⟩
    · exact ⟨.pmuluKa, by simp_all [Instr.fields]⟩
  · exact ⟨.pmod, by simp_all [Instr.fields]⟩
  · exact ⟨.jpoly, by simp_all [Instr.fields]⟩
  · rcases hcomp comp with rfl | rfl
    · exact ⟨.mmulM1, by simp_all [Instr.fields]⟩
    · exact ⟨.mmulM2, by simp_all [Instr.fields]⟩
  · rcases hcomp comp with rfl | rfl
    · exact ⟨.mpowM1, by simp_all [Instr.fields]⟩
    · exact ⟨.mpowM2, by simp_all [Instr.fields]⟩
  · exact ⟨.mrgApply, by simp_all [Instr.fields]⟩
  · exact ⟨.mrgJump, by simp_all [Instr.fields]⟩
  · exact ⟨.mtApply, by simp_all [Instr.fields]⟩
  · exact ⟨.mtJump, by simp_all [Instr.fields]⟩

/-- The field checks accept exactly the words of the table (R72, R73). -/
theorem fieldsOfWord_wellFormed_iff {w : Word} : (fieldsOfWord w).wellFormed = true ↔ ∃ i, w = encode i := by
  refine ⟨fun h => ?_, fun ⟨i, hi⟩ => ?_⟩
  · obtain ⟨i, hi⟩ := CmdFields.exists_eq_fields h
    exact ⟨i, by rw [← wordOfFields_fieldsOfWord w, hi, encode]⟩
  · rw [hi, fieldsOfWord_encode]
    exact i.fields_wellFormed

/-- A rejection names the first failing check (R73). -/
theorem eq_rejectReason_of_decode {w : Word} {r : DecodeReject} (h : decode w = .error r) :
    r = rejectReason (fieldsOfWord w) := by
  unfold decode at h
  split at h
  case h_17 =>
    cases h
    rfl
  all_goals cases h

/-- The check that a rejection names (R73). -/
def DecodeReject.check (f : CmdFields) : DecodeReject → Bool
  | .unknownOp => f.opKnown
  | .unknownAlg => f.algKnown
  | .algNotAllowed => f.algAllowed
  | .compNotAllowed => f.compAllowed
  | .reservedBitSet => f.reservedClear

/-- The named check fails when the fields are not legal (R73). -/
theorem check_rejectReason {f : CmdFields} (hillegal : f.wellFormed = false) : (rejectReason f).check f = false := by
  unfold rejectReason
  split_ifs with hop halg halgAllowed hcompAllowed
  · simpa [DecodeReject.check] using hop
  · simpa [DecodeReject.check] using halg
  · simpa [DecodeReject.check] using halgAllowed
  · simpa [DecodeReject.check] using hcompAllowed
  · simp_all [CmdFields.wellFormed, DecodeReject.check]

/-- Settles O3: legal fields are those of a table word, and a rejected word is no table word, so the check that the
rejection names fails (R72, R73). -/
theorem legalFieldsAreTableWords : Obligations.LegalFieldsAreTableWords := by
  refine ⟨fun w => fieldsOfWord_wellFormed_iff, fun w r hdecode => ?_⟩
  have hillegal : (fieldsOfWord w).wellFormed = false := by
    rw [Bool.eq_false_iff, ne_eq, fieldsOfWord_wellFormed_iff]
    rintro ⟨i, rfl⟩
    rw [decode_encode] at hdecode
    cases hdecode
  have hcheck := check_rejectReason hillegal
  rw [← eq_rejectReason_of_decode hdecode] at hcheck
  cases r <;> exact hcheck

/-- Settles O1: the six words are those that the encoder writes for their commands (R70, R72). -/
theorem decodeReadsTableWords : Obligations.DecodeReadsTableWords :=
  ⟨decode_encode .nop, decode_encode .pmulKa, decode_encode .jpoly, decode_encode .mpowM2, decode_encode .mrgApply,
    decode_encode .mtJump⟩

end Sys2Proof
end

section
/-! PROOFS. MT_APPLY (44_mt19937_jump.md R196). -/

namespace Sys2Proof.Machine

/-- Settles O38: MT_APPLY has no length and no step operand; the cursor check is its operand check (R195, R196). -/
theorem mtApplyMeaning : Obligations.MtApplyMeaning := by
  refine ⟨decode_encode .mtApply, fun s d a hd ha => ?_⟩
  subst hd ha
  exact regionRule_of_not_takesStep rfl rfl rfl (operandRule_mtApply rfl)

end Sys2Proof.Machine
end

section
/-! PROOFS. The outcome of a command apart from the state it is applied to (40_command_execution.md R103, R113, R115):
the code that it raises, or the words that it stores and where. `exec_eq_complete` ties it to `exec`. -/

namespace Sys2Proof.Machine

open Sys2Proof.Statement

/-- Checks 6 to 8 of R103: the code, or the address and the words. -/
def resultOutcome (i : Instr) (s : State) (o : Args) : Except ErrCode (Nat × List Word) :=
  match i with
  | .nop => .ok (0, [])
  | .clmul32 => .ok (o.dstAddr, lowHigh (clmul32 (s.readWord o.aAddr) (s.readWord o.bAddr)))
  | .pmulGs | .pmulKa => .ok (o.dstAddr, wordsOf (2 * o.n) (clmul (s.poly o.aAddr o.n) (s.poly o.bAddr o.n)))
  | .pmuluGs | .pmuluKa => .ok (o.dstAddr, wordsOf (3 * o.n) (clmul (s.poly o.aAddr (2 * o.n)) (s.poly o.bAddr o.n)))
  | .pmod => .ok (o.dstAddr, wordsOf polyWords (modPhi (s.poly o.aAddr 1248)))
  | .jpoly => .ok (o.dstAddr, wordsOf polyWords (jumpPoly o.step))
  | .mmulM1 =>
    if (s.readMat o.aAddr).legal mrgM1 && (s.readMat o.bAddr).legal mrgM1 then
      .ok (o.dstAddr, (matMul mrgM1 (s.readMat o.aAddr) (s.readMat o.bAddr)).words)
    else .error .badOperand
  | .mmulM2 =>
    if (s.readMat o.aAddr).legal mrgM2 && (s.readMat o.bAddr).legal mrgM2 then
      .ok (o.dstAddr, (matMul mrgM2 (s.readMat o.aAddr) (s.readMat o.bAddr)).words)
    else .error .badOperand
  | .mpowM1 => .ok (o.dstAddr, (mrgPow .one o.step).words)
  | .mpowM2 => .ok (o.dstAddr, (mrgPow .two o.step).words)
  | .mrgApply =>
    if (s.readMrg o.dstAddr).legal && (s.readMat o.aAddr).legal mrgM1 && (s.readMat o.bAddr).legal mrgM2 then
      .ok (o.dstAddr, (mrgApply (s.readMrg o.dstAddr) (s.readMat o.aAddr) (s.readMat o.bAddr)).words)
    else .error .badOperand
  | .mrgJump =>
    if o.step = 0 then .ok (o.dstAddr, [])
    else if (s.readMrg o.dstAddr).legal then .ok (o.dstAddr, (mrgJump (s.readMrg o.dstAddr) o.step).words)
    else .error .badOperand
  | .mtApply =>
    if 624 < (s.readMt o.dstAddr).idx then .error .badOperand
    else .ok (o.dstAddr, mtWords (mtReconstruct (s.poly o.aAddr polyWords) (s.readMt o.dstAddr)))
  | .mtJump =>
    if o.step = 0 then .ok (o.dstAddr, [])
    else if 624 < (s.readMt o.dstAddr).idx then .error .badOperand
    else .ok (o.dstAddr, mtWords (mtReconstruct (jumpPoly o.step) (s.readMt o.dstAddr)))

/-- The outcome of command `i` in `s`: the first failing check of 2 to 5 decides, then the command's own rule (R103).
-/
def outcome (i : Instr) (s : State) : Except ErrCode (Nat × List Word) :=
  match firstError s.wmemWords i s.operands with
  | some c => .error c
  | none => resultOutcome i s s.operands

/-- The completion with an outcome (R104 to R106). -/
def State.complete (s : State) : Except ErrCode (Nat × List Word) → State
  | .error c => s.completeError c
  | .ok (start, ws) => s.completeOk start ws

/-- What a command does once checks 2 to 5 have passed is the completion with its outcome. -/
theorem resultOf_eq_complete (i : Instr) (s : State) (o : Args) :
    resultOf i s o = s.complete (resultOutcome i s o) := by
  have hite (p : Prop) [Decidable p] (x y : Except ErrCode (Nat × List Word)) :
      s.complete (if p then x else y) = if p then s.complete x else s.complete y := apply_ite _ p x y
  cases i with
  | mmulM1 | mmulM2 | mrgApply | mrgJump | mtApply | mtJump =>
    simp only [resultOutcome, hite]
    rfl
  | _ => rfl

/-- Every command completes with its outcome (R115). -/
theorem exec_eq_complete (i : Instr) (s : State) : exec i s = .next (s.complete (outcome i s)) := by
  rw [exec_eq_checked, outcome]
  cases hfirst : firstError s.wmemWords i s.operands with
  | some c => rw [State.checked_of_some hfirst, State.complete]
  | none => rw [State.checked_of_none hfirst, resultOf_eq_complete]

/-! Which codes a command can raise, and where it stores (R57, R80, R222). -/

variable {i : Instr} {s : State} {o : Args}

theorem badLength_mem_markedCodes (h : takesLength i = true) : .badLength ∈ markedCodes i := by
  cases i <;> first | decide | cases h

theorem badAddress_mem_markedCodes (h : i ≠ .nop) : .badAddress ∈ markedCodes i := by
  cases i <;> first | decide | exact absurd rfl h

theorem overlap_mem_markedCodes (h : (footprint i o).sources ≠ []) : .overlap ∈ markedCodes i := by
  cases i <;> first | decide | exact absurd rfl h

theorem stepTooLarge_mem_markedCodes (h : takesStep i = true) : .stepTooLarge ∈ markedCodes i := by
  cases i <;> first | decide | cases h

/-- Checks 2 to 5 raise only marked codes: each can fail only for a command that has what it looks at (R222). -/
theorem firstError_mem_markedCodes {ww : Nat} {c : ErrCode} (h : firstError ww i o = some c) : c ∈ markedCodes i := by
  rcases firstError_cases ww i o with ⟨hlen, hcode⟩ | ⟨-, hrange, hcode⟩ | ⟨-, -, hoverlap, hcode⟩ |
    ⟨-, -, -, hstep, hcode⟩ | hcode <;> cases h.symm.trans hcode
  · exact badLength_mem_markedCodes (Bool.and_elim_left hlen)
  · refine badAddress_mem_markedCodes fun hnop => ?_
    rw [hnop] at hrange
    cases hrange
  · refine overlap_mem_markedCodes (o := o) fun hnone => ?_
    simp [overlapFails, hnone] at hoverlap
  · exact stepTooLarge_mem_markedCodes (Bool.and_elim_left hstep)

/-- The operand check is the only one left to raise a code, for the commands that make it (R114, R222). -/
theorem resultOutcome_mem_markedCodes {c : ErrCode} (h : resultOutcome i s o = .error c) : c ∈ markedCodes i := by
  cases i with
  | mmulM1 | mmulM2 | mrgApply | mrgJump | mtApply | mtJump =>
    simp only [resultOutcome] at h
    split_ifs at h
    cases h
    decide
  | _ => cases h

/-- Every code that a command raises is marked for it (R222). -/
theorem outcome_mem_markedCodes {c : ErrCode} (h : outcome i s = .error c) : c ∈ markedCodes i := by
  unfold outcome at h
  split at h
  · next hfirst =>
    cases h
    exact firstError_mem_markedCodes hfirst
  · exact resultOutcome_mem_markedCodes h

/-- A success stores nothing, or all of the destination or in-place region (R57, R80): NOP and the jumps of step 0
store nothing. -/
theorem resultOutcome_ok_region {start : Nat} {ws : List Word} (h : resultOutcome i s o = .ok (start, ws)) :
    ws = [] ∨ (footprint i o).dest = some ⟨start, ws.length⟩ := by
  cases i with
  | nop =>
    cases h
    exact .inl rfl
  | mmulM1 | mmulM2 | mrgApply | mtApply =>
    simp only [resultOutcome] at h
    split_ifs at h
    cases h
    exact .inr (by simp [footprint, Mat3.words, Vec3.words, MrgState.words, mtWords])
  | mrgJump | mtJump =>
    simp only [resultOutcome] at h
    split_ifs at h <;> cases h
    · exact .inl rfl
    · exact .inr (by simp [footprint, Vec3.words, MrgState.words, mtWords])
  | _ =>
    cases h
    exact .inr (by simp [footprint, lowHigh, Mat3.words, Vec3.words])

/-- The same of the whole command. -/
theorem outcome_ok_region {start : Nat} {ws : List Word} (h : outcome i s = .ok (start, ws)) :
    ws = [] ∨ (footprint i s.operands).dest = some ⟨start, ws.length⟩ := by
  unfold outcome at h
  split at h
  · cases h
  · exact resultOutcome_ok_region h

/-- Settles O7: an outcome is a marked code, or words that fill the command's region or are none (R106, R222, R224).
-/
theorem commandRaisesMarkedCodeOrWritesItsRegion : Obligations.CommandRaisesMarkedCodeOrWritesItsRegion := by
  intro i s
  refine ⟨_, exec_eq_complete i s, ?_⟩
  cases houtcome : outcome i s with
  | error c => exact .inl ⟨c, outcome_mem_markedCodes houtcome, rfl⟩
  | ok stored =>
    obtain ⟨start, ws⟩ := stored
    refine .inr ⟨rfl, fun a hout => State.readWord_writeList_outside s start ws a ?_⟩
    rcases outcome_ok_region houtcome with rfl | hdest
    · exact Nat.lt_or_ge a start
    · have hnot := hout _ hdest
      simp only [InRegion] at hnot
      omega

/-! Two states that agree on the regions a command reads give it the same outcome (R113). -/

/-- Two states agree on the words of a region. -/
def agreeOn (s u : State) (r : Region) : Prop := ∀ a, InRegion r a → s.readWord a = u.readWord a

variable {u : State} {a n : Nat}

theorem agreeOn.readWord_add (h : agreeOn s u ⟨a, n⟩) {k : Nat} (hk : k < n) :
    s.readWord (a + k) = u.readWord (a + k) :=
  h _ ⟨Nat.le_add_right a k, Nat.add_lt_add_left hk a⟩

theorem agreeOn.readWord (h : agreeOn s u ⟨a, 1⟩) : s.readWord a = u.readWord a := h.readWord_add Nat.one_pos

theorem agreeOn.poly (h : agreeOn s u ⟨a, n⟩) : s.poly a n = u.poly a n :=
  congrArg polyOfWords (List.map_congr_left fun _ hk => h.readWord_add (List.mem_range.1 hk))

theorem agreeOn.u64 {k : Nat} (h : agreeOn s u ⟨a, n⟩) (hk : k + 2 ≤ n) : s.u64 (a + k) = u.u64 (a + k) := by
  rw [State.u64, State.u64, Nat.add_assoc, h.readWord_add (by omega : k < n), h.readWord_add (by omega : k + 1 < n)]

theorem agreeOn.readVec {k : Nat} (h : agreeOn s u ⟨a, n⟩) (hk : k + 6 ≤ n) :
    s.readVec (a + k) = u.readVec (a + k) :=
  Vec3.ext (h.u64 (by omega)) (h.u64 (k := k + 2) (by omega)) (h.u64 (k := k + 4) (by omega))

theorem agreeOn.readMat (h : agreeOn s u ⟨a, 18⟩) : s.readMat a = u.readMat a :=
  Mat3.ext (h.readVec (k := 0) (by decide)) (h.readVec (k := 6) (by decide)) (h.readVec (k := 12) (by decide))

theorem agreeOn.readMrg (h : agreeOn s u ⟨a, 12⟩) : s.readMrg a = u.readMrg a :=
  congrArg₂ MrgState.mk (h.readVec (k := 0) (by decide)) (h.readVec (k := 6) (by decide))

theorem agreeOn.readMt (h : agreeOn s u ⟨a, 625⟩) : s.readMt a = u.readMt a := by
  refine congrArg₂ MtState.mk (congrArg Vector.ofFn (funext fun i => ?_)) (congrArg BitVec.toNat ?_)
  · exact h.readWord_add (i.isLt.trans (by decide))
  · exact h.readWord_add (by decide)

/-- What a command computes depends only on the regions it reads (R57, R80, R113). -/
theorem resultOutcome_congr (h : ∀ r ∈ readRegions i o, agreeOn s u r) :
    resultOutcome i s o = resultOutcome i u o := by
  cases i <;>
    simp only [readRegions, footprint, Option.toList, List.append_nil, List.nil_append, List.cons_append,
      List.forall_mem_cons, List.not_mem_nil, false_imp_iff, implies_true, and_true] at h <;>
    simp only [resultOutcome]
  case clmul32 =>
    obtain ⟨ha, hb⟩ := h
    rw [ha.readWord, hb.readWord]
  case pmulGs | pmulKa | pmuluGs | pmuluKa =>
    obtain ⟨ha, hb⟩ := h
    rw [ha.poly, hb.poly]
  case pmod => rw [h.poly]
  case mmulM1 | mmulM2 =>
    obtain ⟨ha, hb⟩ := h
    rw [ha.readMat, hb.readMat]
  case mrgApply =>
    obtain ⟨ha, hb, hdst⟩ := h
    rw [ha.readMat, hb.readMat, hdst.readMrg]
  case mrgJump => rw [h.readMrg]
  case mtApply =>
    obtain ⟨ha, hdst⟩ := h
    rw [ha.poly, hdst.readMt]
  case mtJump => rw [h.readMt]

/-- The checks need no WMEM, so the whole outcome depends only on the operands, WMEM_WORDS and those regions (R113).
-/
theorem outcome_congr (hoperands : s.operands = u.operands) (hparam : s.param = u.param)
    (h : ∀ r ∈ readRegions i s.operands, agreeOn s u r) : outcome i s = outcome i u := by
  have hwords : s.wmemWords = u.wmemWords := congrArg BitVec.toNat hparam
  rw [outcome, outcome, resultOutcome_congr h, hwords, hoperands]

/-- Settles O8: the two states complete with one outcome (R113). -/
theorem outcomeDependsOnlyOnOperands : Obligations.OutcomeDependsOnlyOnOperands := by
  intro i s u hoperands hparam hagree
  rw [exec_eq_complete, exec_eq_complete, ← outcome_congr hoperands hparam hagree]
  cases outcome i s with
  | error c => exact .inl ⟨c, rfl, rfl⟩
  | ok stored => exact .inr ⟨stored.1, stored.2, rfl, rfl⟩

end Sys2Proof.Machine
end

section
/-! PROOFS. MRG_APPLY and MRG_JUMP keep legal states and all-zero components (43_mrg32k3a_matrix.md R165, R174). -/

namespace Sys2Proof.Machine

/-- Every entry of a product with a vector is a remainder by m (R165, R167). -/
theorem matVec_below {m : Nat} (hm : 0 < m) (X : Mat3) (v : Vec3) : (matVec m X v).below m = true :=
  Vec3.below_iff.2 ⟨Nat.mod_lt _ hm, Nat.mod_lt _ hm, Nat.mod_lt _ hm⟩

/-- A matrix takes the zero vector to itself (R174). -/
@[simp] theorem matVec_zero (m : Nat) (X : Mat3) : matVec m X ⟨0, 0, 0⟩ = ⟨0, 0, 0⟩ := by
  simp [matVec, dotMod]

/-- A product with a state is legal, whatever the state and the matrices are (R165, R169). -/
theorem mrgApply_legal (σ : MrgState) (M1 M2 : Mat3) : (mrgApply σ M1 M2).legal = true :=
  MrgState.legal_iff.2 ⟨matVec_below (by decide) _ _, matVec_below (by decide) _ _⟩

/-- Words that hold a vector read as that vector when its entries fit in one word each (R163). -/
theorem State.readVec_of_words {t : State} {x m : Nat} {v : Vec3} (hm : m ≤ 2 ^ 32) (hv : v.below m = true)
    (hwords : ∀ k (h : k < 6), t.readWord (x + k) = v.words[k]'h) : t.readVec x = v := by
  obtain ⟨h0, h1, h2⟩ := Vec3.below_iff.1 hv
  have hentry (k e : Nat) (he : e < m) (hlow : t.readWord (x + k) = BitVec.ofNat 32 e)
      (hhigh : t.readWord (x + k + 1) = 0#32) : t.u64 (x + k) = e := by
    rw [State.u64, hlow, hhigh, BitVec.toNat_ofNat, Nat.mod_eq_of_lt (he.trans_le hm)]
    rfl
  exact Vec3.ext (hentry 0 v.e0 h0 (hwords 0 (by decide)) (hwords 1 (by decide)))
    (hentry 2 v.e1 h1 (hwords 2 (by decide)) (hwords 3 (by decide)))
    (hentry 4 v.e2 h2 (hwords 4 (by decide)) (hwords 5 (by decide)))

/-- A legal state that is stored reads back (R163). -/
theorem State.readMrg_completeOk (s : State) (d : Nat) {σ : MrgState} (hσ : σ.legal = true) :
    (s.completeOk d σ.words).readMrg d = σ := by
  obtain ⟨h1, h2⟩ := MrgState.legal_iff.1 hσ
  have hword (k : Nat) (hk : k < 12) : (s.completeOk d σ.words).readWord (d + k) = σ.words[k]'hk :=
    State.readWord_writeList s d σ.words k hk
  refine congrArg₂ MrgState.mk (State.readVec_of_words (by decide) h1 fun k hk => ?_)
    (State.readVec_of_words (by decide) h2 fun k hk => ?_)
  · rw [hword k (by omega)]
    exact List.getElem_append_left (as := σ.c1.words) hk
  · rw [Nat.add_assoc, hword (6 + k) (by omega)]
    interval_cases k <;> rfl

/-- However MRG_APPLY and MRG_JUMP complete, the state at dst is as before or a product (R170, R172). -/
theorem readMrg_of_exec {i : Instr} {s t : State} (hi : i = .mrgApply ∨ i = .mrgJump) (hexec : exec i s = .next t) :
    t.readMrg s.operands.dstAddr = s.readMrg s.operands.dstAddr ∨
    ∃ M1 M2, t.readMrg s.operands.dstAddr = mrgApply (s.readMrg s.operands.dstAddr) M1 M2 := by
  have hproduct (M1 M2 : Mat3) :=
    s.readMrg_completeOk s.operands.dstAddr (mrgApply_legal (s.readMrg s.operands.dstAddr) M1 M2)
  rw [exec_eq_checked] at hexec
  cases hexec
  rcases State.checked_cases s i (resultOf i s) with ⟨c, -, h⟩ | ⟨-, h⟩ <;> rw [h]
  · exact .inl rfl
  · rcases hi with rfl | rfl <;> simp only [resultOf]
    · split
      · exact .inr ⟨_, _, hproduct _ _⟩
      · exact .inl rfl
    · split_ifs
      · exact .inl rfl
      · exact .inr ⟨_, _, hproduct _ _⟩
      · exact .inl rfl

/-- Settles O54: a product is legal, and it takes a zero component to a zero component (R165, R174). -/
theorem mrgCommandsKeepLegalStates : Obligations.MrgCommandsKeepLegalStates := by
  intro i hi s t hexec hlegal
  have hdst : s.operands.dst.toNat = s.operands.dstAddr := rfl
  rw [hdst] at hlegal ⊢
  rcases readMrg_of_exec (by simpa using hi) hexec with h | ⟨M1, M2, h⟩ <;> rw [h]
  · exact ⟨hlegal, id, id⟩
  · refine ⟨mrgApply_legal _ M1 M2, fun hzero => ?_, fun hzero => ?_⟩ <;> rw [mrgApply, hzero, matVec_zero]

end Sys2Proof.Machine
end

section
/-! PROOFS. The carry-less product as a product over GF(2), and the 32-iteration loop of CLMUL32 (41_gf2_multiply.md
R120, R121). -/

namespace Sys2Proof.Machine

open Polynomial Finset

@[simp] theorem gf2Poly_zero : gf2Poly 0 = 0 := by
  ext k
  simp [Bool.zero_eq_false]

@[simp] theorem gf2Poly_one : gf2Poly 1 = 1 := gf2Poly_two_pow 0

/-- The product does not depend on the order of its factors (R120). -/
theorem clmul_comm (p q : Nat) : clmul p q = clmul q p :=
  gf2Poly_injective <| by rw [gf2Poly_clmul, gf2Poly_clmul, mul_comm]

@[simp] theorem clmul_zero (p : Nat) : clmul p 0 = 0 := gf2Poly_injective <| by simp

@[simp] theorem zero_clmul (p : Nat) : clmul 0 p = 0 := gf2Poly_injective <| by simp

@[simp] theorem clmul_one (p : Nat) : clmul p 1 = p := gf2Poly_injective <| by simp

/-- The loop of the product may go on above the degree of `q`: those rounds add nothing (R120). -/
theorem clmulAux_eq_clmul {q n : Nat} (hq : q < 2 ^ n) (p : Nat) : clmulAux p q n 0 = clmul p q := by
  apply Nat.eq_of_testBit_eq
  intro k
  have hhigh (i : Nat) (hi : n ≤ i) : clmulTerm p q k i = 0 := by
    simp [clmulTerm, testBit_eq_false_of_lt_of_le hq hi, Bool.zero_eq_false]
  rw [clmul, testBit_clmulAux, testBit_clmulAux]
  congr 1
  exact sum_congr_of_eq_on_inter (fun i _ hi => clmulTerm_of_log2_lt (by simpa using hi) p k)
    (fun i _ hi => hhigh i (by simpa using hi)) (fun _ _ _ => rfl)

/-- The masked word is the word or 0 (R121). -/
theorem toNat_and_mask (a : Word) (c : Bool) :
    (a &&& (if c then 0xFFFFFFFF#32 else 0#32)).toNat = if c then a.toNat else 0 := by
  have hones : 0xFFFFFFFF#32 = BitVec.allOnes 32 := by decide
  cases c
  · simp
  · rw [if_pos rfl, if_pos rfl, hones, BitVec.and_allOnes]

/-- No round of the loop shifts a bit out of the 64 (R121). -/
theorem toNat_clmul32Round (a : Word) (c : Bool) {i : Nat} (hi : i < 32) :
    ((a &&& (if c then 0xFFFFFFFF#32 else 0#32)).setWidth 64 <<< i).toNat = if c then a.toNat <<< i else 0 := by
  have hfits : a.toNat <<< i < 2 ^ 64 := by
    rw [Nat.shiftLeft_eq]
    calc a.toNat * 2 ^ i < 2 ^ 32 * 2 ^ 32 :=
        Nat.mul_lt_mul_of_lt_of_le a.isLt (Nat.pow_le_pow_right (by decide) hi.le) (by decide)
      _ = 2 ^ 64 := by decide
  rw [BitVec.toNat_shiftLeft, BitVec.toNat_setWidth_of_le (by decide), toNat_and_mask]
  cases c
  · simp
  · rw [if_pos rfl, if_pos rfl, Nat.mod_eq_of_lt hfits]

/-- The loop of R121 is the loop of the product, from the other end. -/
theorem toNat_clmul32 (a b : Word) : (clmul32 a b).toNat = clmul a.toNat b.toNat := by
  rw [← clmulAux_eq_clmul b.isLt]
  have hloop (n k : Nat) (hn : n ≤ 32) :
      ((List.range n).foldl
        (fun r i => r ^^^ ((a &&& (if b.getLsbD i then 0xFFFFFFFF#32 else 0#32)).setWidth 64 <<< i))
        0#64).toNat.testBit k = ∑ i ∈ range n, clmulTerm a.toNat b.toNat k i := by
    induction n with
    | zero => simp [Bool.zero_eq_false]
    | succ n ih =>
      rw [List.range_succ, List.foldl_append, List.foldl_cons, List.foldl_nil, BitVec.toNat_xor, Nat.testBit_xor,
        ih (by omega), toNat_clmul32Round a _ (by omega), BitVec.getLsbD, testBit_clmulRound, sum_range_succ,
        Bool.add_eq_xor]
  apply Nat.eq_of_testBit_eq
  intro k
  rw [clmul32, hloop 32 k le_rfl, testBit_clmulAux, Nat.zero_testBit, ← Bool.zero_eq_false, zero_add]

/-- Settles O41: the loop is the product, which is that of a commutative ring (R121). -/
theorem clmul32IsTheProduct : Obligations.Clmul32IsTheProduct := by
  intro a b
  refine ⟨toNat_clmul32 a b, ?_, ?_, ?_⟩ <;> apply BitVec.eq_of_toNat_eq <;> rw [toNat_clmul32]
  · rw [toNat_clmul32, clmul_comm]
  · exact clmul_zero _
  · rw [BitVec.toNat_setWidth_of_le (by decide)]
    exact clmul_one _

end Sys2Proof.Machine
end

section
/-! PROOFS. Lists of words as polynomials over GF(2) (00_scope.md R10): what each list operation of 41_gf2_multiply.md
does to the polynomial. -/

namespace Sys2Proof.Machine

open Polynomial

/-- The polynomial over GF(2) that a list of words holds, least significant word first (R10). -/
noncomputable def wordsPoly (ws : List Word) : Bool[X] := gf2Poly (polyOfWords ws)

theorem wordsPoly_def (ws : List Word) : wordsPoly ws = gf2Poly (polyOfWords ws) := rfl

@[simp] theorem wordsPoly_nil : wordsPoly [] = 0 := gf2Poly_zero

/-- The first word holds the low coefficients (R10). -/
theorem wordsPoly_cons (w : Word) (ws : List Word) :
    wordsPoly (w :: ws) = gf2Poly w.toNat + wordsPoly ws * X ^ 32 := by
  have hxor : polyOfWords (w :: ws) = w.toNat ^^^ polyOfWords ws <<< 32 := by
    apply Nat.eq_of_testBit_eq
    intro k
    rw [polyOfWords_cons, Nat.testBit_two_pow_mul_add _ w.isLt, Nat.testBit_xor, Nat.testBit_shiftLeft]
    by_cases hk : k < 32
    · simp [hk, not_le.2 hk]
    · simp [hk, not_lt.1 hk, testBit_eq_false_of_lt_of_le w.isLt (not_lt.1 hk)]
  rw [wordsPoly, hxor, gf2Poly_xor, gf2Poly_shiftLeft, wordsPoly]

/-- Appended words are shifted by the length in front of them (R10). -/
theorem wordsPoly_append (x y : List Word) :
    wordsPoly (x ++ y) = wordsPoly x + wordsPoly y * X ^ (32 * x.length) := by
  induction x with
  | nil => simp
  | cons w x ih =>
    rw [List.cons_append, wordsPoly_cons, wordsPoly_cons, ih, List.length_cons]
    ring

@[simp] theorem length_zeroWords (n : Nat) : (zeroWords n).length = n := List.length_replicate

@[simp] theorem wordsPoly_zeroWords (n : Nat) : wordsPoly (zeroWords n) = 0 := by
  induction n with
  | zero => exact wordsPoly_nil
  | succ n ih =>
    rw [zeroWords, List.replicate_succ, wordsPoly_cons, ← zeroWords, ih]
    simp

@[simp] theorem length_xorWords (x y : List Word) : (xorWords x y).length = min x.length y.length :=
  List.length_zipWith

/-- Word-by-word XOR of two regions of one length adds their polynomials (R10). -/
theorem wordsPoly_xorWords {x y : List Word} (h : x.length = y.length) :
    wordsPoly (xorWords x y) = wordsPoly x + wordsPoly y := by
  induction x generalizing y with
  | nil =>
    rw [List.length_eq_zero_iff.1 h.symm]
    simp [xorWords]
  | cons w x ih =>
    cases y with
    | nil => cases h
    | cons v y =>
      rw [xorWords, List.zipWith_cons_cons, wordsPoly_cons, wordsPoly_cons, wordsPoly_cons, ← xorWords,
        ih (Nat.succ.inj h), BitVec.toNat_xor, gf2Poly_xor]
      ring

@[simp] theorem length_xorAt (R : List Word) (k : Nat) (v : Word) : (xorAt R k v).length = R.length :=
  List.length_modify _ _ _

/-- `R[k] ← R[k] ⊕ v` adds v at its place (R124). -/
theorem wordsPoly_xorAt {R : List Word} {k : Nat} (h : k < R.length) (v : Word) :
    wordsPoly (xorAt R k v) = wordsPoly R + gf2Poly v.toNat * X ^ (32 * k) := by
  induction R generalizing k with
  | nil => cases h
  | cons w R ih =>
    cases k with
    | zero =>
      have hzero : xorAt (w :: R) 0 v = (w ^^^ v) :: R := rfl
      rw [hzero, wordsPoly_cons, wordsPoly_cons, BitVec.toNat_xor, gf2Poly_xor]
      ring
    | succ k =>
      have hsucc : xorAt (w :: R) (k + 1) v = w :: xorAt R k v := rfl
      rw [hsucc, wordsPoly_cons, wordsPoly_cons, ih (Nat.lt_of_succ_lt_succ h)]
      ring

/-- The two halves of a word product hold the product (R121). -/
theorem wordsPoly_lowHigh_clmul32 (a b : Word) :
    wordsPoly (lowHigh (clmul32 a b)) = gf2Poly a.toNat * gf2Poly b.toNat := by
  have hhalves (r : BitVec 64) : polyOfWords (lowHigh r) = r.toNat := by
    have hr := r.isLt
    simp only [lowHigh, polyOfWords, BitVec.extractLsb'_toNat, Nat.shiftRight_eq_div_pow]
    omega
  rw [wordsPoly, hhalves, toNat_clmul32, gf2Poly_clmul]

/-- A list of words is determined by its length and its polynomial (R10). -/
theorem eq_wordsOf_of_wordsPoly {ws : List Word} {n p : Nat} (hlength : ws.length = n)
    (hpoly : wordsPoly ws = gf2Poly p) : ws = wordsOf n p := by
  rw [← hlength, ← gf2Poly_injective hpoly, wordsOf_polyOfWords]

/-- The words of a product hold the whole product, since the product has no more words than its factors together
(R123, R126). -/
theorem wordsPoly_wordsOf_clmul {A B : List Word} {n : Nat} (h : A.length + B.length = n) :
    wordsPoly (wordsOf n (clmul (polyOfWords A) (polyOfWords B))) = wordsPoly A * wordsPoly B := by
  have hfits : clmul (polyOfWords A) (polyOfWords B) < 2 ^ (32 * n) :=
    (clmul_lt (polyOfWords_lt A) (polyOfWords_lt B)).trans_le (Nat.pow_le_pow_right (by decide) (by omega))
  rw [wordsPoly, polyOfWords_wordsOf hfits, gf2Poly_clmul, wordsPoly, wordsPoly]

/-- The low words of a longer image (R10). -/
theorem take_wordsOf {m n : Nat} (h : n ≤ m) (p : Nat) : (wordsOf m p).take n = wordsOf n p := by
  rw [wordsOf, ← List.map_take, List.take_range, min_eq_left h, wordsOf]

/-- Padding with zero words keeps the polynomial (R125). -/
@[simp] theorem wordsPoly_padWords (n : Nat) (x : List Word) : wordsPoly (padWords n x) = wordsPoly x := by
  simp [padWords, wordsPoly_append]

theorem length_padWords {n : Nat} {x : List Word} (h : x.length ≤ n) : (padWords n x).length = n := by
  simp [padWords, h]

/-- A list is its first n words and the rest, shifted by n words (R125, R127). -/
theorem wordsPoly_take_add_drop {n : Nat} {x : List Word} (h : n ≤ x.length) :
    wordsPoly x = wordsPoly (x.take n) + wordsPoly (x.drop n) * X ^ (32 * n) := by
  have hsplit := wordsPoly_append (x.take n) (x.drop n)
  rwa [List.take_append_drop, List.length_take_of_le h] at hsplit

end Sys2Proof.Machine
end

section
/-! PROOFS. The three algorithms of 41_gf2_multiply.md give the exact product: grade-school (R124), Karatsuba (R125)
and the unbalanced split (R127). -/

namespace Sys2Proof.Machine

open Polynomial

@[simp] theorem length_gradeSchoolRow (x : Word) (i : Nat) (R : List Word) (j : Nat) (B : List Word) :
    (gradeSchoolRow x i R j B).length = R.length := by
  induction B generalizing R j with
  | nil => rfl
  | cons y B ih => rw [gradeSchoolRow, ih, length_xorAt, length_xorAt]

/-- The inner loop adds x · B at word i + j (R124). -/
theorem wordsPoly_gradeSchoolRow (x : Word) {i j : Nat} {R B : List Word} (h : i + j + B.length < R.length) :
    wordsPoly (gradeSchoolRow x i R j B) =
      wordsPoly R + gf2Poly x.toNat * wordsPoly B * X ^ (32 * (i + j)) := by
  induction B generalizing R j with
  | nil => simp [gradeSchoolRow]
  | cons y B ih =>
    rw [List.length_cons] at h
    have hproduct := wordsPoly_lowHigh_clmul32 x y
    rw [lowHigh, wordsPoly_cons, wordsPoly_cons, wordsPoly_nil] at hproduct
    rw [gradeSchoolRow, ih (by simp only [length_xorAt]; omega), wordsPoly_xorAt (by simp only [length_xorAt]; omega),
      wordsPoly_xorAt (by omega), wordsPoly_cons]
    linear_combination X ^ (32 * (i + j)) * hproduct

@[simp] theorem length_gradeSchoolRows (B R : List Word) (i : Nat) (A : List Word) :
    (gradeSchoolRows B R i A).length = R.length := by
  induction A generalizing R i with
  | nil => rfl
  | cons x A ih => rw [gradeSchoolRows, ih, length_gradeSchoolRow]

/-- The outer loop adds A · B at word i (R124). -/
theorem wordsPoly_gradeSchoolRows {i : Nat} {A B R : List Word} (h : i + A.length + B.length ≤ R.length) :
    wordsPoly (gradeSchoolRows B R i A) = wordsPoly R + wordsPoly A * wordsPoly B * X ^ (32 * i) := by
  induction A generalizing R i with
  | nil => simp [gradeSchoolRows]
  | cons x A ih =>
    rw [List.length_cons] at h
    rw [gradeSchoolRows, ih (by rw [length_gradeSchoolRow]; omega), wordsPoly_gradeSchoolRow x (by omega),
      wordsPoly_cons]
    ring

/-- Settles O42: the loops add A · B to 2n zero words (R124). -/
theorem gradeSchoolComputesTheProduct : Obligations.GradeSchoolComputesTheProduct := by
  intro A B hlength
  apply eq_wordsOf_of_wordsPoly
  · rw [gradeSchool, length_gradeSchoolRows, length_zeroWords]
  · rw [gradeSchool, wordsPoly_gradeSchoolRows (by rw [length_zeroWords]; omega), gf2Poly_clmul, wordsPoly_zeroWords,
      wordsPoly, wordsPoly]
    ring

/-- Over GF(2) a sum of two equal terms is 0. -/
theorem gf2Poly_two_eq_zero : (2 : Bool[X]) = 0 := by
  have hbool : (2 : Bool) = 0 := rfl
  rw [← C_ofNat, hbool, C_0]

/-- The last lines of `KA`: three products of n₁-word halves overlap in 4n₁ words (R125). -/
def karatsubaCombine (n1 : Nat) (P0 P1 P2 : List Word) : List Word :=
  xorWords (xorWords (P0 ++ zeroWords (2 * n1)) (zeroWords n1 ++ xorWords (xorWords P1 P0) P2 ++ zeroWords n1))
    (zeroWords (2 * n1) ++ P2)

section

variable {n1 : Nat} {P0 P1 P2 : List Word} (h0 : P0.length = 2 * n1) (h1 : P1.length = 2 * n1)
  (h2 : P2.length = 2 * n1)

include h0 h1 h2

theorem length_karatsubaCombine : (karatsubaCombine n1 P0 P1 P2).length = 4 * n1 := by
  simp only [karatsubaCombine, length_xorWords, List.length_append, length_zeroWords, h0, h1, h2]
  omega

/-- The middle product stands at word n₁ and the high product at word 2n₁ (R125). -/
theorem wordsPoly_karatsubaCombine :
    wordsPoly (karatsubaCombine n1 P0 P1 P2) =
      wordsPoly P0 + (wordsPoly P1 + wordsPoly P0 + wordsPoly P2) * X ^ (32 * n1) +
        wordsPoly P2 * X ^ (32 * (2 * n1)) := by
  have hmid : (xorWords (xorWords P1 P0) P2).length = 2 * n1 := by simp [h0, h1, h2]
  have hmiddle : (P0 ++ zeroWords (2 * n1)).length =
      (zeroWords n1 ++ xorWords (xorWords P1 P0) P2 ++ zeroWords n1).length := by
    simp only [List.length_append, length_zeroWords, h0, hmid]
    omega
  have hhigh : (xorWords (P0 ++ zeroWords (2 * n1))
      (zeroWords n1 ++ xorWords (xorWords P1 P0) P2 ++ zeroWords n1)).length = (zeroWords (2 * n1) ++ P2).length := by
    rw [length_xorWords, ← hmiddle, min_self, List.length_append, List.length_append, h0, h2, add_comm,
      length_zeroWords]
  rw [karatsubaCombine, wordsPoly_xorWords hhigh, wordsPoly_xorWords hmiddle]
  simp only [wordsPoly_append, wordsPoly_zeroWords, length_zeroWords,
    wordsPoly_xorWords (show (xorWords P1 P0).length = P2.length by simp [h0, h1, h2]),
    wordsPoly_xorWords (h1.trans h0.symm)]
  ring

end

/-- With A = A₀ + A₁T and B = B₀ + B₁T the three products combine to A₀B₀ + (A₀B₁ + A₁B₀)T + A₁B₁T², for over GF(2)
the terms that the middle product has twice are 0 (R125). -/
theorem karatsuba_identity (A0 A1 B0 B1 T : Bool[X]) :
    A0 * B0 + ((A0 + A1) * (B0 + B1) + A0 * B0 + A1 * B1) * T + A1 * B1 * T ^ 2 = (A0 + A1 * T) * (B0 + B1 * T) := by
  linear_combination (A0 * B0 + A1 * B1) * T * gf2Poly_two_eq_zero

/-- One word by one word (R125). -/
theorem karatsubaAux_of_length_one {fuel : Nat} {A B : List Word} (hA : A.length = 1) (hB : B.length = 1) :
    karatsubaAux (fuel + 1) A B = wordsOf (2 * A.length) (clmul (polyOfWords A) (polyOfWords B)) := by
  obtain ⟨a, rfl⟩ := List.length_eq_one_iff.1 hA
  obtain ⟨b, rfl⟩ := List.length_eq_one_iff.1 hB
  rw [karatsubaAux, if_pos hA.le]
  apply eq_wordsOf_of_wordsPoly rfl
  rw [List.headD_cons, List.headD_cons, wordsPoly_lowHigh_clmul32, gf2Poly_clmul]
  simp [polyOfWords]

/-- Longer operands are split in halves of n₁ words, the high ones padded (R125). -/
theorem karatsubaAux_succ {fuel n1 : Nat} {A B : List Word} (htwo : ¬A.length ≤ 1) (hn1 : (A.length + 1) / 2 = n1) :
    karatsubaAux (fuel + 1) A B =
      (karatsubaCombine n1 (karatsubaAux fuel (A.take n1) (B.take n1))
        (karatsubaAux fuel (xorWords (A.take n1) (padWords n1 (A.drop n1)))
          (xorWords (B.take n1) (padWords n1 (B.drop n1))))
        (karatsubaAux fuel (padWords n1 (A.drop n1)) (padWords n1 (B.drop n1)))).take (2 * A.length) := by
  subst hn1
  rw [karatsubaAux, if_neg htwo]
  rfl

/-- An operand is its low half and its padded high half, both of n₁ words (R125). -/
theorem karatsuba_halves {n1 : Nat} {A : List Word} (hmin : n1 ≤ A.length) (hmax : A.length ≤ 2 * n1) :
    (A.take n1).length = n1 ∧ (padWords n1 (A.drop n1)).length = n1 ∧
      wordsPoly A = wordsPoly (A.take n1) + wordsPoly (padWords n1 (A.drop n1)) * X ^ (32 * n1) := by
  refine ⟨List.length_take_of_le hmin, length_padWords (by rw [List.length_drop]; omega), ?_⟩
  rw [wordsPoly_padWords]
  exact wordsPoly_take_add_drop hmin

/-- The recursion gives the product whenever its bound is at least the length of the operands (R125). -/
theorem karatsubaAux_eq_wordsOf {fuel : Nat} {A B : List Word} (hpos : 1 ≤ A.length) (hlength : A.length = B.length)
    (hfuel : A.length ≤ fuel) :
    karatsubaAux fuel A B = wordsOf (2 * A.length) (clmul (polyOfWords A) (polyOfWords B)) := by
  induction fuel generalizing A B with
  | zero => omega
  | succ fuel ih =>
    by_cases hone : A.length ≤ 1
    · exact karatsubaAux_of_length_one (by omega) (by omega)
    · obtain ⟨n1, hn1⟩ : ∃ n1, (A.length + 1) / 2 = n1 := ⟨_, rfl⟩
      have hproduct {x y : List Word} (hx : x.length = n1) (hy : y.length = n1) :
          (karatsubaAux fuel x y).length = 2 * n1 ∧ wordsPoly (karatsubaAux fuel x y) = wordsPoly x * wordsPoly y := by
        rw [ih (by omega) (hx.trans hy.symm) (by omega), hx, length_wordsOf]
        exact ⟨rfl, wordsPoly_wordsOf_clmul (by omega)⟩
      obtain ⟨hA0, hA1, hA⟩ := karatsuba_halves (n1 := n1) (A := A) (by omega) (by omega)
      obtain ⟨hB0, hB1, hB⟩ := karatsuba_halves (n1 := n1) (A := B) (by omega) (by omega)
      obtain ⟨hlen0, hP0⟩ := hproduct hA0 hB0
      obtain ⟨hlen2, hP2⟩ := hproduct hA1 hB1
      obtain ⟨hlen1, hP1⟩ := hproduct (x := xorWords (A.take n1) (padWords n1 (A.drop n1)))
        (y := xorWords (B.take n1) (padWords n1 (B.drop n1)))
        (by rw [length_xorWords, hA0, hA1, min_self]) (by rw [length_xorWords, hB0, hB1, min_self])
      rw [wordsPoly_xorWords (hA0.trans hA1.symm), wordsPoly_xorWords (hB0.trans hB1.symm)] at hP1
      rw [karatsubaAux_succ hone hn1, ← take_wordsOf (by omega : 2 * A.length ≤ 4 * n1)]
      congr 1
      apply eq_wordsOf_of_wordsPoly (length_karatsubaCombine hlen0 hlen1 hlen2)
      rw [wordsPoly_karatsubaCombine hlen0 hlen1 hlen2, hP0, hP1, hP2, gf2Poly_clmul, ← wordsPoly_def, ← wordsPoly_def,
        hA, hB, ← karatsuba_identity, ← pow_mul, show 32 * (2 * n1) = 32 * n1 * 2 by ring]

/-- Settles O43: the length of the operands is a large enough bound (R125). -/
theorem karatsubaComputesTheProduct : Obligations.KaratsubaComputesTheProduct :=
  fun _ _ hpos hlength => karatsubaAux_eq_wordsOf hpos hlength le_rfl

/-- The unbalanced split gives the product over every exact balanced algorithm (R127). -/
theorem unbalanced_eq_wordsOf {mul : List Word → List Word → List Word}
    (hmul : ∀ x y : List Word, 1 ≤ x.length → x.length = y.length →
      mul x y = wordsOf (2 * x.length) (clmul (polyOfWords x) (polyOfWords y)))
    {A B : List Word} (hpos : 1 ≤ B.length) (hlength : A.length = 2 * B.length) :
    unbalanced mul A B = wordsOf (3 * B.length) (clmul (polyOfWords A) (polyOfWords B)) := by
  have hlow : (A.take B.length).length = B.length := List.length_take_of_le (by omega)
  have hhigh : (A.drop B.length).length = B.length := by rw [List.length_drop]; omega
  have hA := wordsPoly_take_add_drop (by omega : B.length ≤ A.length)
  have hproduct {x : List Word} (hx : x.length = B.length) :
      (mul x B).length = 2 * B.length ∧ wordsPoly (mul x B) = wordsPoly x * wordsPoly B := by
    rw [hmul x B (by omega) hx, hx, length_wordsOf]
    exact ⟨rfl, wordsPoly_wordsOf_clmul (by omega)⟩
  obtain ⟨hlenLow, hLow⟩ := hproduct hlow
  obtain ⟨hlenHigh, hHigh⟩ := hproduct hhigh
  have hsame : (mul (A.take B.length) B ++ zeroWords B.length).length =
      (zeroWords B.length ++ mul (A.drop B.length) B).length := by
    simp only [List.length_append, length_zeroWords, hlenLow, hlenHigh]
    omega
  apply eq_wordsOf_of_wordsPoly
  · rw [unbalanced, length_xorWords, ← hsame, min_self, List.length_append, length_zeroWords, hlenLow]
    omega
  · rw [unbalanced, wordsPoly_xorWords hsame, wordsPoly_append, wordsPoly_append, wordsPoly_zeroWords,
      length_zeroWords, hLow, hHigh, gf2Poly_clmul, ← wordsPoly_def, ← wordsPoly_def, hA]
    ring

/-- Settles O44: both balanced algorithms are exact (R124, R125, R127). -/
theorem unbalancedSplitComputesTheProduct : Obligations.UnbalancedSplitComputesTheProduct := by
  intro A B hpos hlength
  exact ⟨unbalanced_eq_wordsOf (fun x y _ hxy => gradeSchoolComputesTheProduct x y hxy) hpos hlength,
    unbalanced_eq_wordsOf karatsubaComputesTheProduct hpos hlength⟩

end Sys2Proof.Machine
end

section
/-! PROOFS. Reduction modulo φ (42_phi_reduction.md R143; 00_scope.md R10): the unique remainder, and the block fold.
-/

namespace Sys2Proof.Machine

open Sys2Proof.Statement Polynomial

/-- Every polynomial over GF(2) is held by a `Nat` (R10). -/
theorem gf2Poly_surjective : Function.Surjective gf2Poly := by
  intro f
  induction f using Polynomial.induction_on' with
  | add f g hf hg =>
    obtain ⟨p, rfl⟩ := hf
    obtain ⟨q, rfl⟩ := hg
    exact ⟨p ^^^ q, gf2Poly_xor p q⟩
  | monomial n b =>
    cases b with
    | false => exact ⟨0, gf2Poly_zero.trans (monomial_zero_right n).symm⟩
    | true => exact ⟨2 ^ n, (gf2Poly_two_pow n).trans (monomial_one_right_eq_X_pow n).symm⟩

/-- Over GF(2) a term added twice cancels. -/
theorem gf2Poly_add_self (f : Bool[X]) : f + f = 0 := by
  linear_combination f * gf2Poly_two_eq_zero

/-- A polynomial and its remainder differ by a multiple of the divisor. -/
theorem add_modByMonic_eq_mul (f g : Bool[X]) : f + f %ₘ g = f /ₘ g * g := by
  have hdivision := modByMonic_add_div f g
  linear_combination gf2Poly_add_self (f %ₘ g) - hdivision

/-- The remainder differs from the polynomial by a multiple of φ (R10). -/
theorem exists_xor_modPhi_eq_clmul (x : Nat) : ∃ q, x ^^^ modPhi x = clmul q phi := by
  obtain ⟨q, hq⟩ := gf2Poly_surjective (gf2Poly x /ₘ gf2Poly phi)
  refine ⟨q, gf2Poly_injective ?_⟩
  rw [gf2Poly_xor, gf2Poly_modPhi, gf2Poly_clmul, hq, add_modByMonic_eq_mul]

/-- Adding a multiple of φ keeps the remainder (R10). -/
theorem modPhi_xor_clmul (x q : Nat) : modPhi (x ^^^ clmul q phi) = modPhi x :=
  gf2Poly_injective <| by
    rw [gf2Poly_modPhi, gf2Poly_modPhi, gf2Poly_xor, gf2Poly_clmul, add_modByMonic, mul_self_modByMonic
      monic_gf2Poly_phi, add_zero]

/-- Settles O45: the remainder of the division by the monic φ, and every candidate is its own remainder (R10). -/
theorem modPhiIsTheUniqueRemainder : Obligations.ModPhiIsTheUniqueRemainder := by
  intro x
  have hreduced := modPhi_lt x
  unfold degK at hreduced
  refine ⟨hreduced, exists_xor_modPhi_eq_clmul x, fun r q hr hq => ?_⟩
  have hx : r = x ^^^ clmul q phi := by rw [← hq, ← Nat.xor_assoc, Nat.xor_self, Nat.zero_xor]
  have hr : r < 2 ^ degK := by
    unfold degK
    exact hr
  rw [← modPhi_xor_clmul x q, ← hx, modPhi_of_lt hr]

/-- One block of the fold: the block's bits are cleared and added again below it, at φ's positions (R143). -/
def foldBlock (x : Nat) (b : Nat × Nat) : Nat :=
  let seg := (x >>> b.1) % 2 ^ (b.2 - b.1 + 1)
  (phiPositions.foldl (fun y p => y ^^^ (seg <<< (p + b.1 - degK))) x) ^^^ (seg <<< b.1)

theorem foldBlocks_cons (x : Nat) (b : Nat × Nat) (blocks : List (Nat × Nat)) :
    foldBlocks x (b :: blocks) = foldBlocks (foldBlock x b) blocks := rfl

/-- A loop that adds one value for each entry of a list adds their sum. -/
theorem gf2Poly_foldl_xor (f : Nat → Nat) (ps : List Nat) (x : Nat) :
    gf2Poly (ps.foldl (fun y p => y ^^^ f p) x) = gf2Poly x + (ps.map fun p => gf2Poly (f p)).sum := by
  induction ps generalizing x with
  | nil => simp
  | cons p ps ih =>
    rw [List.foldl_cons, ih, gf2Poly_xor, List.map_cons, List.sum_cons, add_assoc]

/-- φ as a sum of powers of t (R140, R141). -/
theorem gf2Poly_phi_eq : gf2Poly phi = X ^ degK + (phiPositions.map fun p => X ^ p).sum := by
  rw [phi, gf2Poly_foldl_xor]
  simp only [Nat.one_shiftLeft, gf2Poly_two_pow]

/-- Copies of a segment at a list of positions and at a top position are a product with the sum of those powers
(R143). -/
theorem gf2Poly_foldl_segments (seg x : Nat) {top start : Nat} (h : top ≤ start) (ps : List Nat) :
    gf2Poly (ps.foldl (fun y p => y ^^^ seg <<< (p + start - top)) x ^^^ seg <<< start) =
      gf2Poly x + gf2Poly (seg <<< (start - top)) * (X ^ top + (ps.map fun p => X ^ p).sum) := by
  obtain ⟨m, rfl⟩ := Nat.exists_eq_add_of_le h
  have hshift (p : Nat) : p + (top + m) - top = m + p := by omega
  have hterm (p : Nat) : gf2Poly (seg <<< (p + (top + m) - top)) = gf2Poly seg * X ^ m * X ^ p := by
    rw [hshift, gf2Poly_shiftLeft, pow_add, mul_assoc]
  rw [gf2Poly_xor, gf2Poly_foldl_xor, Nat.add_sub_cancel_left, gf2Poly_shiftLeft, gf2Poly_shiftLeft]
  simp only [hterm, List.sum_map_mul_left]
  ring

/-- What a block that starts at or above 19937 adds is a multiple of φ (R143). -/
theorem foldBlock_eq_xor_clmul (x : Nat) {b : Nat × Nat} (hstart : degK ≤ b.1) :
    foldBlock x b = x ^^^ clmul (((x >>> b.1) % 2 ^ (b.2 - b.1 + 1)) <<< (b.1 - degK)) phi := by
  apply gf2Poly_injective
  rw [gf2Poly_xor, gf2Poly_clmul, gf2Poly_phi_eq]
  exact gf2Poly_foldl_segments _ x hstart phiPositions

/-- φ's positions below 19937 leave a gap of 623 (R141, R143). -/
theorem phiPositions_le : ∀ p ∈ phiPositions, p + 623 ≤ degK := by decide +kernel

/-- A loop that adds values below a power of two stays below it. -/
theorem foldl_xor_lt {n : Nat} {f : Nat → Nat} {ps : List Nat} (hf : ∀ p ∈ ps, f p < 2 ^ n) {x : Nat} (hx : x < 2 ^ n) :
    ps.foldl (fun y p => y ^^^ f p) x < 2 ^ n := by
  induction ps generalizing x with
  | nil => exact hx
  | cons p ps ih =>
    obtain ⟨hp, hps⟩ := List.forall_mem_cons.1 hf
    exact ih hps (Nat.xor_lt_two_pow hx hp)

/-- A loop that adds values may start from 0 and add the start value at the end. -/
theorem foldl_xor_eq_xor_foldl (f : Nat → Nat) (ps : List Nat) (x : Nat) :
    ps.foldl (fun y p => y ^^^ f p) x = x ^^^ ps.foldl (fun y p => y ^^^ f p) 0 :=
  gf2Poly_injective <| by rw [gf2Poly_foldl_xor, gf2Poly_xor, gf2Poly_foldl_xor, gf2Poly_zero, zero_add]

/-- The bits of `x` from `n` on, cleared. -/
theorem xor_shiftRight_shiftLeft (x n : Nat) : x ^^^ (x >>> n) <<< n = x % 2 ^ n := by
  apply Nat.eq_of_testBit_eq
  intro k
  rw [Nat.testBit_xor, Nat.testBit_shiftLeft, Nat.testBit_shiftRight, Nat.testBit_mod_two_pow]
  by_cases hk : n ≤ k
  · simp [hk, not_lt.2 hk]
  · simp [hk, not_le.1 hk]

/-- A block of at most 623 bits that reaches up to the degree of `x` leaves nothing from its start on (R143). -/
theorem foldBlock_lt {x : Nat} {b : Nat × Nat} (hstart : degK ≤ b.1) (hblock : b.1 ≤ b.2) (hlen : b.2 - b.1 + 1 ≤ 623)
    (hx : x < 2 ^ (b.2 + 1)) : foldBlock x b < 2 ^ b.1 := by
  have hseg : x >>> b.1 < 2 ^ (b.2 - b.1 + 1) := by
    rw [Nat.shiftRight_eq_div_pow]
    apply Nat.div_lt_of_lt_mul
    rwa [← Nat.pow_add, show b.1 + (b.2 - b.1 + 1) = b.2 + 1 by omega]
  have hlow (p : Nat) (hp : p ∈ phiPositions) : (x >>> b.1) <<< (p + b.1 - degK) < 2 ^ b.1 := by
    have hgap := phiPositions_le p hp
    rw [Nat.shiftLeft_eq]
    calc x >>> b.1 * 2 ^ (p + b.1 - degK)
        < 2 ^ (b.2 - b.1 + 1) * 2 ^ (p + b.1 - degK) := Nat.mul_lt_mul_of_pos_right hseg (Nat.two_pow_pos _)
      _ = 2 ^ (b.2 - b.1 + 1 + (p + b.1 - degK)) := (Nat.pow_add ..).symm
      _ ≤ 2 ^ b.1 := Nat.pow_le_pow_right (by decide) (by omega)
  rw [foldBlock, Nat.mod_eq_of_lt hseg, foldl_xor_eq_xor_foldl, Nat.xor_assoc, Nat.xor_comm (List.foldl ..),
    ← Nat.xor_assoc, xor_shiftRight_shiftLeft]
  exact Nat.xor_lt_two_pow (Nat.mod_lt _ (Nat.two_pow_pos _)) (foldl_xor_lt hlow (Nat.two_pow_pos _))

/-- Settles O46: each block keeps the remainder and lowers the degree to its start, until nothing is left to reduce
(R143). -/
theorem foldingBlocksReduces : Obligations.FoldingBlocksReduces := by
  intro x blocks hcover
  induction blocks generalizing x with
  | nil => exact (modPhi_of_lt hcover).symm
  | cons b blocks ih =>
    obtain ⟨hstart, hblock, hlen, hx, hrest⟩ := hcover
    rw [foldBlocks_cons, ih _ (hrest _ (foldBlock_lt hstart hblock hlen hx)), foldBlock_eq_xor_clmul x hstart,
      modPhi_xor_clmul]

end Sys2Proof.Machine
end

section
/-! PROOFS. The digit loop (42_phi_reduction.md R146, 43_mrg32k3a_matrix.md R171): the base-8 digits of the step add
up to it, so the loop gives the power of the step. -/

namespace Sys2Proof.Machine

open Sys2Proof.Statement

/-- A digit by division (R146). -/
theorem digit_eq (s i : Nat) : digit s i = s / 8 ^ i % 8 := by
  rw [digit, Nat.shiftRight_eq_div_pow, Nat.pow_mul, show 7 = 2 ^ 3 - 1 from rfl, Nat.and_two_pow_sub_one_eq_mod]

/-- The digits below the n-th are the remainder by 8^n (R146). -/
theorem mod_pow_succ_eq_digit (s n : Nat) : s % 8 ^ (n + 1) = s % 8 ^ n + digit s n * 8 ^ n := by
  rw [digit_eq, Nat.mod_pow_succ, Nat.mul_comm (8 ^ n)]

/-- The 21 digits cover every legal step (R7, R146). -/
theorem mod_digits_of_le {s : Nat} (hs : s ≤ 2 ^ 63 - 1) : s % 8 ^ digitCount = s :=
  Nat.mod_eq_of_lt (hs.trans_lt (by decide))

/-- The loop gives the power of the step when the table holds powers and combining powers adds their exponents (R146,
R171). -/
theorem digitLoop_eq_power {α : Type} {combine : α → α → α} {table : Nat → Nat → α} {power : Nat → α}
    (hcombine : ∀ a b, combine (power a) (power b) = power (a + b))
    (htable : ∀ i j, i < digitCount → table i j = power ((j + 1) * 8 ^ i)) {s : Nat} (hs : s ≤ 2 ^ 63 - 1) :
    digitLoop combine table (power 0) s = power s := by
  have hloop (n : Nat) (hn : n ≤ digitCount) :
      (List.range n).foldl (fun r i => if 0 < digit s i then combine r (table i (digit s i - 1)) else r) (power 0) =
        power (s % 8 ^ n) := by
    induction n with
    | zero => simp [Nat.mod_one]
    | succ n ih =>
      rw [List.range_succ, List.foldl_append, ih (by omega), List.foldl_cons, List.foldl_nil, mod_pow_succ_eq_digit]
      split
      case isTrue hpos => rw [htable n _ (by omega), hcombine, Nat.sub_add_cancel hpos]
      case isFalse hzero => rw [Nat.eq_zero_of_not_pos hzero, Nat.zero_mul, Nat.add_zero]
  rw [digitLoop, hloop digitCount le_rfl, mod_digits_of_le hs]

/-- The polynomial 1 is reduced (R146). -/
theorem modPhi_two_pow_zero : modPhi (2 ^ 0) = 1 := modPhi_of_lt (Nat.pow_lt_pow_right (by decide) (by decide))

/-- Settles O48: ROM table P holds powers of t, and the product modulo φ adds their exponents (R142, R146). -/
theorem jumpPolyIsThePowerOfT : Obligations.JumpPolyIsThePowerOfT := by
  intro s hs
  rw [jumpPoly, ← modPhi_two_pow_zero]
  exact digitLoop_eq_power (power := fun e => modPhi (2 ^ e)) mulPhi_two_pow (fun i j hi => romP_eq hi j) hs

/-- A polynomial of degree below m is held by any n words that have m bits (R10). -/
theorem polyOfWords_wordsOf_of_le {p m n : Nat} (hp : p < 2 ^ m) (h : m ≤ 32 * n) : polyOfWords (wordsOf n p) = p :=
  polyOfWords_wordsOf (hp.trans_le (Nat.pow_le_pow_right (by decide) h))

/-- A reduced polynomial fits in 624 words (R7, R10). -/
theorem polyOfWords_wordsOf_modPhi (x : Nat) : polyOfWords (wordsOf 624 (modPhi x)) = modPhi x :=
  polyOfWords_wordsOf_of_le (modPhi_lt x) (by decide)

/-- A product of two reduced polynomials fits in 1248 words (R123). -/
theorem polyOfWords_wordsOf_clmul_modPhi (x y : Nat) :
    polyOfWords (wordsOf 1248 (clmul (modPhi x) (modPhi y))) = clmul (modPhi x) (modPhi y) :=
  polyOfWords_wordsOf_of_le (clmul_lt (modPhi_lt x) (modPhi_lt y)) (by decide)

/-- Settles O49: the word images are exact, so only the product of two powers of t modulo φ is left (R148). -/
theorem jumpPolysCompose : Obligations.JumpPolysCompose := by
  refine ⟨mulPhi_two_pow, fun a b hab => ?_⟩
  rw [jumpPolyIsThePowerOfT a (by omega), jumpPolyIsThePowerOfT b (by omega), jumpPolyIsThePowerOfT (a + b) hab,
    polyOfWords_wordsOf_modPhi, polyOfWords_wordsOf_modPhi, polyOfWords_wordsOf_clmul_modPhi]
  exact congrArg (wordsOf 624) (mulPhi_two_pow a b)

/-- Settles O51: ROM table Tₖ holds powers of Aₖ, and left-multiplying by one adds its exponent (R166, R171). -/
theorem mpowIsThePowerOfA : Obligations.MpowIsThePowerOfA := by
  intro k s hs
  have hcombine (a b : Nat) : matMul k.modulus (matPower k b) (matPower k a) = matPower k (a + b) := by
    rw [matMul_matPower, Nat.add_comm]
  exact digitLoop_eq_power (combine := fun R T => matMul k.modulus T R) hcombine (fun i j hi => romT_eq hi k j) hs

end Sys2Proof.Machine
end

section
/-! PROOFS. MRG32k3a by its matrices (43_mrg32k3a_matrix.md R161, R162, R173): one step is a product with A₁ and A₂,
and s steps are a product with their s-th powers. -/

namespace Sys2Proof.Machine

open Sys2Proof.Statement

/-- The last row of A₁ is the recurrence of the first component: −a₁₃ is taken modulo m₁ (R160 to R162). -/
theorem dotMod_transition_one (v : Vec3) : dotMod mrgM1 ⟨4294156359, 1403580, 0⟩ v = mrgP1 v := by
  simp only [dotMod, mrgP1, mrgM1, mrgA12, mrgA13]
  omega

/-- The last row of A₂ is the recurrence of the second component (R160 to R162). -/
theorem dotMod_transition_two (v : Vec3) : dotMod mrgM2 ⟨4293573854, 0, 527612⟩ v = mrgP2 v := by
  simp only [dotMod, mrgP2, mrgM2, mrgA21, mrgA23]
  omega

/-- A row that picks one legal entry gives that entry (R162). -/
theorem dotMod_pick {m : Nat} {v : Vec3} (hv : v.below m = true) :
    dotMod m ⟨0, 1, 0⟩ v = v.e1 ∧ dotMod m ⟨0, 0, 1⟩ v = v.e2 := by
  obtain ⟨-, h1, h2⟩ := Vec3.below_iff.1 hv
  simp [dotMod, Nat.mod_eq_of_lt h1, Nat.mod_eq_of_lt h2]

/-- Settles O52: the first two rows shift the entries, the last is the recurrence (R161, R162). -/
theorem transitionMatricesAreOneStep : Obligations.TransitionMatricesAreOneStep := by
  intro σ hσ
  obtain ⟨h1, h2⟩ := MrgState.legal_iff.1 hσ
  obtain ⟨h11, h12⟩ := dotMod_pick h1
  obtain ⟨h21, h22⟩ := dotMod_pick h2
  simp only [mrgApply, mrgStep, matVec, Component.transition, h11, h12, h21, h22, dotMod_transition_one,
    dotMod_transition_two]

/-- `MatVec_m` is the product with a vector over the integers modulo m (R167). -/
@[simp] theorem toZMod_matVec (m : Nat) (X : Mat3) (v : Vec3) :
    (matVec m X v).toZMod m = Matrix.mulVec (X.toZMod m) (v.toZMod m) := by
  ext r
  fin_cases r <;>
    simp [Vec3.toZMod, Mat3.toZMod, matVec, natCast_dotMod, Matrix.mulVec, add_assoc]

/-- The powers of one component's transition matrix act on vectors one after the other (R173). -/
theorem matVec_matPower (k : Component) (a b : Nat) (v : Vec3) :
    matVec k.modulus (matPower k a) (matVec k.modulus (matPower k b) v) = matVec k.modulus (matPower k (a + b)) v := by
  apply Vec3.toZMod_injOn k.modulus (matVec_below k.modulus_pos _ _) (matVec_below k.modulus_pos _ _)
  rw [toZMod_matVec, toZMod_matVec, toZMod_matVec, Matrix.mulVec_mulVec, ← toZMod_matMul, matMul_matPower]

/-- The power 0 leaves a legal vector alone (R111). -/
theorem matVec_matPower_zero {k : Component} {v : Vec3} (hv : v.below k.modulus = true) :
    matVec k.modulus (matPower k 0) v = v := by
  apply Vec3.toZMod_injOn k.modulus (matVec_below k.modulus_pos _ _) hv
  rw [toZMod_matVec, toZMod_matPower, pow_zero, Matrix.one_mulVec]

/-- A state multiplied by the s-th powers of both transition matrices (R172). -/
def mrgPowerApply (s : Nat) (σ : MrgState) : MrgState := mrgApply σ (matPower .one s) (matPower .two s)

theorem mrgPowerApply_add (a b : Nat) (σ : MrgState) :
    mrgPowerApply a (mrgPowerApply b σ) = mrgPowerApply (a + b) σ :=
  congrArg₂ MrgState.mk (matVec_matPower .one a b σ.c1) (matVec_matPower .two a b σ.c2)

/-- The product with the s-th powers is s steps of the generator (R173). -/
theorem mrgPowerApply_eq_iterate {σ : MrgState} (hσ : σ.legal = true) (s : Nat) :
    mrgPowerApply s σ = mrgStep^[s] σ := by
  induction s with
  | zero =>
    obtain ⟨h1, h2⟩ := MrgState.legal_iff.1 hσ
    exact congrArg₂ MrgState.mk (matVec_matPower_zero (k := .one) h1) (matVec_matPower_zero (k := .two) h2)
  | succ s ih =>
    have hstep := transitionMatricesAreOneStep (mrgPowerApply s σ) (mrgApply_legal _ _ _)
    rw [← matPower_one, ← matPower_one] at hstep
    rw [Function.iterate_succ_apply', ← ih, ← hstep, Nat.add_comm s, ← mrgPowerApply_add, mrgPowerApply]

/-- MRG_JUMP's state is the product with the s-th powers (R171, R172). -/
theorem mrgJump_eq_mrgPowerApply {s : Nat} (hs : s ≤ 2 ^ 63 - 1) (σ : MrgState) : mrgJump σ s = mrgPowerApply s σ := by
  rw [mrgJump, mpowIsThePowerOfA .one s hs, mpowIsThePowerOfA .two s hs, mrgPowerApply]

/-- Settles O53: the jump is the product with powers of A₁ and A₂, which is so many steps (R173). -/
theorem mrgJumpEqualsStepping : Obligations.MrgJumpEqualsStepping := by
  intro σ hσ
  have hjump (s : Nat) (hs : s ≤ 2 ^ 63 - 1) : mrgJump σ s = mrgStep^[s] σ := by
    rw [mrgJump_eq_mrgPowerApply hs, mrgPowerApply_eq_iterate hσ]
  refine ⟨hjump, hjump, fun a b hab => ?_⟩
  rw [mrgJump_eq_mrgPowerApply (by omega : a ≤ 2 ^ 63 - 1), mrgJump_eq_mrgPowerApply (by omega : b ≤ 2 ^ 63 - 1),
    mrgJump_eq_mrgPowerApply hab, mrgPowerApply_add, Nat.add_comm]

end Sys2Proof.Machine
end

section
/-! PROOFS. The MT19937 array and the word operations of 44_mt19937_jump.md (R191, R192, R200), bit by bit. -/

namespace Sys2Proof.Machine

/-- What a slot holds after a slot is written (R191). -/
theorem mtGet_mtSet (mt : MtArray) (k j : Nat) (v : Word) :
    mtGet (mtSet mt k v) j = if k % 624 = j % 624 then v else mtGet mt j := by
  simp [mtGet, mtSet, Vector.getElem_set]

/-- Slots are numbered modulo N (R191). -/
theorem mtGet_congr (mt : MtArray) {j k : Nat} (h : j % 624 = k % 624) : mtGet mt j = mtGet mt k := by
  simp only [mtGet, h]

/-- Two arrays with the same 624 slots are equal (R191). -/
theorem MtArray.ext {mt mt' : MtArray} (h : ∀ j < 624, mtGet mt j = mtGet mt' j) : mt = mt' := by
  apply Vector.ext
  intro j hj
  have hslot := h j hj
  simpa only [mtGet, Nat.mod_eq_of_lt hj] using hslot

@[simp] theorem mtGet_replicate (v : Word) (j : Nat) : mtGet (Vector.replicate 624 v) j = v := by
  simp [mtGet]

/-- `(y & U) | (z & L)`: the top bit of one word and the low 31 bits of another (R192, R200). -/
def mtMix (y z : Word) : Word := (y &&& mtU) ||| (z &&& mtL)

theorem getLsbD_mtMix (y z : Word) {b : Nat} (hb : b < 32) :
    (mtMix y z).getLsbD b = if b = 31 then y.getLsbD 31 else z.getLsbD b := by
  rw [mtMix, BitVec.getLsbD_or, BitVec.getLsbD_and, BitVec.getLsbD_and]
  have hmask : ∀ b < 32, mtU.getLsbD b = decide (b = 31) ∧ mtL.getLsbD b = !decide (b = 31) := by decide
  rw [(hmask b hb).1, (hmask b hb).2]
  by_cases h : b = 31 <;> simp [h]

/-- A word is a mix of itself (R200). -/
@[simp] theorem mtMix_self (y : Word) : mtMix y y = y := by
  apply BitVec.eq_of_getLsbD_eq
  intro b hb
  rw [getLsbD_mtMix y y hb]
  split
  case isTrue h => rw [h]
  case isFalse => rfl

/-- The top bit of a mix and its low bits come from their own words (R200). -/
theorem mtMix_mtMix (y z v x : Word) : mtMix (mtMix y z) (mtMix v x) = mtMix y x := by
  apply BitVec.eq_of_getLsbD_eq
  intro b hb
  rw [getLsbD_mtMix _ _ hb, getLsbD_mtMix _ _ hb, getLsbD_mtMix _ _ hb, getLsbD_mtMix _ _ (by decide)]
  by_cases h : b = 31 <;> simp [h]

/-- A mix depends only on the top bit of its first word. -/
theorem mtMix_congr {y y' : Word} (h : y.getLsbD 31 = y'.getLsbD 31) (z : Word) : mtMix y z = mtMix y' z := by
  apply BitVec.eq_of_getLsbD_eq
  intro b hb
  rw [getLsbD_mtMix _ _ hb, getLsbD_mtMix _ _ hb, h]

/-- A word of the walk bit by bit: the two slots shifted up by one, and the twist constant undone under the bit
(R200). -/
theorem getLsbD_walkWord (bit : Bool) (mt : MtArray) (i : Nat) {b : Nat} (hb : b < 32) :
    (walkWord bit mt i).getLsbD b =
      if b = 0 then bit
      else ((mtGet mt i).getLsbD (b - 1) ^^ (mtGet mt (i + 397)).getLsbD (b - 1)) ^^
        (bit && mtA.getLsbD (b - 1)) := by
  rcases Nat.eq_zero_or_pos b with rfl | hpos
  · cases bit <;> simp [walkWord]
  · have hprev : b - 1 < 32 := by omega
    cases bit <;> simp [walkWord, BitVec.getLsbD_eq_getElem hprev, hb, hpos.ne']

end Sys2Proof.Machine
end

section
/-! PROOFS. Collection (44_mt19937_jump.md R197): the shift register holds the low bits of the raw outputs, last draw
lowest. -/

namespace Sys2Proof.Machine

@[simp] theorem mtOutput_zero (w : MtState) : mtOutput w 0 = (rawNext w).1 := rfl

/-- The outputs after one draw are the outputs from the second on (R193). -/
theorem mtOutput_succ (w : MtState) (k : Nat) : mtOutput w (k + 1) = mtOutput (rawNext w).2 k := rfl

theorem collectLoop_succ (n pm : Nat) (w : MtState) :
    collectLoop (n + 1) pm w = collectLoop n ((pm <<< 1) ||| ((rawNext w).1.getLsbD 0).toNat) (rawNext w).2 := rfl

/-- The copy is advanced once a round (R197). -/
theorem collectLoop_snd (n pm : Nat) (w : MtState) : (collectLoop n pm w).2 = mtAdvance n w := by
  induction n generalizing pm w with
  | zero => rfl
  | succ n ih => rw [collectLoop_succ, ih, mtAdvance]

/-- Each round shifts the register and puts the low bit of its draw below (R197). -/
theorem testBit_collectLoop (n pm : Nat) (w : MtState) (k : Nat) :
    (collectLoop n pm w).1.testBit k = if k < n then (mtOutput w (n - 1 - k)).getLsbD 0 else pm.testBit (k - n) := by
  induction n generalizing pm w with
  | zero => simp [collectLoop]
  | succ n ih =>
    rw [collectLoop_succ, ih]
    rcases lt_trichotomy k n with hlt | rfl | hgt
    · rw [if_pos hlt, if_pos (by omega), ← mtOutput_succ, show n - 1 - k + 1 = n + 1 - 1 - k by omega]
    · rw [if_neg (lt_irrefl k), if_pos (Nat.lt_succ_self k), show k + 1 - 1 - k = 0 by omega, mtOutput_zero,
        Nat.sub_self]
      cases (rawNext w).1.getLsbD 0 <;> simp
    · have hpos : 0 < k - n := by omega
      have hbit (b : Bool) : b.toNat.testBit (k - n) = false := testBit_eq_false_of_lt_of_le b.toNat_lt hpos
      rw [if_neg (by omega), if_neg (by omega), Nat.testBit_or, hbit, Nat.testBit_shiftLeft, Bool.or_false,
        show k - n - 1 = k - (n + 1) by omega]
      simp [Nat.one_le_iff_ne_zero, hpos.ne']

/-- Collection is 39874 rounds from the empty register (R197). -/
theorem collect_eq (w : MtState) : collect w = collectLoop 39874 0 w := rfl

/-- Settles O55: the last of 39874 rounds leaves the low bit of draw j at t^(39873 − j) (R197). -/
theorem collectedBitsAreLowBits : Obligations.CollectedBitsAreLowBits := by
  intro w
  rw [collect_eq]
  refine ⟨fun j hj => ?_, ?_, collectLoop_snd 39874 0 w⟩
  · rw [testBit_collectLoop, if_pos (by omega), show 39874 - 1 - (39873 - j) = j by omega]
  · apply Nat.lt_pow_two_of_testBit
    intro k hk
    rw [testBit_collectLoop, if_neg (by omega), Nat.zero_testBit]

end Sys2Proof.Machine
end

section
/-! PROOFS. The walk (44_mt19937_jump.md R200) forgets its start: a round shifts the differences of two runs up by one
bit, so after enough rounds none is left. -/

namespace Sys2Proof.Machine

theorem walkLoop_succ (q : Nat → Bool) (n : Nat) (mt : MtArray) (y0 : Word) :
    walkLoop q (n + 1) mt y0 =
      walkLoop q n (mtSet mt (n + 624) (mtMix y0 (walkWord (q n) mt (n + 623)))) (walkWord (q n) mt (n + 623)) := rfl

/-- How many rounds before the written index a bit of a written word has become independent of the start: 623 for each
bit below it, and one more for the top bit, which comes from the word of the round before. -/
def settleDelay (b : Nat) : Nat := if b = 31 then 623 * 31 + 1 else 623 * b

/-- Two runs of the walk agree wherever enough rounds have passed: `first` is the index that the first round writes,
and `n` rounds are left, so the slots hold the indices from n + 624 to n + 1247. -/
structure WalkAgree (first n : Nat) (mt mt' : MtArray) (y0 y0' : Word) : Prop where
  slots : ∀ j, n + 624 ≤ j → j < n + 1248 → ∀ b < 32, j + settleDelay b ≤ first →
    (mtGet mt j).getLsbD b = (mtGet mt' j).getLsbD b
  carried : ∀ b < 32, n + 624 + 623 * b ≤ first → y0.getLsbD b = y0'.getLsbD b

/-- The word of a round agrees in bit b when the slots that it reads do in bit b − 1 (R200). -/
theorem WalkAgree.walkWord {first n : Nat} {mt mt' : MtArray} {y0 y0' : Word}
    (h : WalkAgree first (n + 1) mt mt' y0 y0') (bit : Bool) {b : Nat} (hb : b < 32)
    (hsettled : n + 624 + 623 * b ≤ first) :
    (walkWord bit mt (n + 623)).getLsbD b = (walkWord bit mt' (n + 623)).getLsbD b := by
  have hslot (j : Nat) (hmin : n + 625 ≤ j) (hmax : j < n + 1248) (hpos : b ≠ 0) :
      (mtGet mt j).getLsbD (b - 1) = (mtGet mt' j).getLsbD (b - 1) := by
    refine h.slots j (by omega) (by omega) (b - 1) (by omega) ?_
    rw [settleDelay, if_neg (by omega)]
    omega
  have hwrap (mt : MtArray) : mtGet mt (n + 623) = mtGet mt (n + 1247) := mtGet_congr mt (by omega)
  rw [getLsbD_walkWord _ _ _ hb, getLsbD_walkWord _ _ _ hb, hwrap, hwrap]
  split
  case isTrue => rfl
  case isFalse hpos =>
    rw [hslot (n + 1247) (by omega) (by omega) hpos, hslot (n + 623 + 397) (by omega) (by omega) hpos]

/-- One round of both runs (R200). -/
theorem WalkAgree.round {first n : Nat} {mt mt' : MtArray} {y0 y0' : Word}
    (h : WalkAgree first (n + 1) mt mt' y0 y0') (bit : Bool) :
    WalkAgree first n
      (mtSet mt (n + 624) (mtMix y0 (Machine.walkWord bit mt (n + 623))))
      (mtSet mt' (n + 624) (mtMix y0' (Machine.walkWord bit mt' (n + 623))))
      (Machine.walkWord bit mt (n + 623)) (Machine.walkWord bit mt' (n + 623)) where
  slots := by
    intro j hmin hmax b hb hsettled
    rw [mtGet_mtSet, mtGet_mtSet]
    split
    case isTrue hwritten =>
      have hj : j = n + 624 := by omega
      subst hj
      rw [settleDelay] at hsettled
      rw [getLsbD_mtMix _ _ hb, getLsbD_mtMix _ _ hb]
      split_ifs at hsettled ⊢
      · exact h.carried 31 (by decide) (le_of_eq_of_le (by ring) hsettled)
      · exact h.walkWord bit hb hsettled
    case isFalse hkept => exact h.slots j (by omega) (by omega) b hb hsettled
  carried := fun b hb hsettled => h.walkWord bit hb hsettled

/-- Once the first index is late enough, all rounds together leave equal arrays (R200). -/
theorem WalkAgree.walkLoop_eq {first n : Nat} {mt mt' : MtArray} {y0 y0' : Word} (h : WalkAgree first n mt mt' y0 y0')
    (hfirst : 1247 + (623 * 31 + 1) ≤ first) (q : Nat → Bool) : walkLoop q n mt y0 = walkLoop q n mt' y0' := by
  induction n generalizing mt mt' y0 y0' with
  | zero =>
    apply MtArray.ext
    intro j hj
    apply BitVec.eq_of_getLsbD_eq
    intro b hb
    have hdelay : settleDelay b ≤ 623 * 31 + 1 := by
      rw [settleDelay]
      split <;> omega
    have hwrap (mt : MtArray) : mtGet mt j = mtGet mt (j + 624) := mtGet_congr mt (by omega)
    simp only [walkLoop]
    rw [hwrap, hwrap]
    exact h.slots (j + 624) (by omega) (by omega) b hb (by omega)
  | succ n ih =>
    rw [walkLoop_succ, walkLoop_succ]
    exact ih (h.round (q n))

/-- Before the first round nothing is asked of the two runs. -/
theorem WalkAgree.start (n : Nat) (mt mt' : MtArray) (y0 y0' : Word) : WalkAgree (n + 623) n mt mt' y0 y0' where
  slots := fun j hmin _ b _ hsettled => absurd hsettled (by omega)
  carried := fun b _ hsettled => absurd hsettled (by omega)

/-- Settles O56: the first of 19938 rounds writes index 20561, which is just late enough (R200). -/
theorem walkForgetsItsStart : Obligations.WalkForgetsItsStart := by
  intro q mt mt' y0 y0'
  have hlate : 1247 + (623 * 31 + 1) ≤ 19938 + 623 := by norm_num
  exact (WalkAgree.start 19938 mt mt' y0 y0').walkLoop_eq hlate q

end Sys2Proof.Machine
end

section
/-! PROOFS. The zero polynomial and the all-zero array (44_mt19937_jump.md R195, R196). -/

namespace Sys2Proof.Machine

/-- The all-zero array (R195). -/
def mtZero : MtArray := Vector.replicate 624 0#32

@[simp] theorem mtGet_mtZero (j : Nat) : mtGet mtZero j = 0#32 := mtGet_replicate 0#32 j

/-- Writing 0 into the all-zero array changes nothing. -/
@[simp] theorem mtSet_mtZero (k : Nat) : mtSet mtZero k 0#32 = mtZero := by
  apply MtArray.ext
  intro j _
  rw [mtGet_mtSet, mtGet_mtZero, ite_self]

/-- MT_APPLY's array from the two results of collection (R196). -/
theorem mtReconstruct_eq (g : Nat) (w : MtState) :
    mtReconstruct g w = walk (extract (clmul g (collect w).1)) (collect w).2.mt := by
  unfold mtReconstruct
  generalize collect w = collected
  rfl

/-- The walk starts from any array (R200). -/
theorem walk_eq (q : Nat → Bool) (mt mt' : MtArray) (y0 : Word) : walk q mt = walkLoop q 19938 mt' y0 :=
  walkForgetsItsStart q mt mt' 0#32 y0

/-- The walk over zero bits leaves the all-zero array (R200). -/
theorem walkLoop_mtZero {q : Nat → Bool} (hq : ∀ c, q c = false) (n : Nat) : walkLoop q n mtZero 0#32 = mtZero := by
  have hword (i : Nat) : walkWord false mtZero i = 0#32 := by
    rw [walkWord, mtGet_mtZero, mtGet_mtZero]
    rfl
  induction n with
  | zero => rfl
  | succ n ih => rw [walkLoop_succ, hq, hword, mtMix_self, mtSet_mtZero, ih]

theorem walk_of_forall_false {q : Nat → Bool} (hq : ∀ c, q c = false) (mt : MtArray) : walk q mt = mtZero := by
  rw [walk_eq q mt mtZero 0#32, walkLoop_mtZero hq]

/-- The zero polynomial has no coefficient to extract (R199). -/
theorem extract_zero (c : Nat) : extract 0 c = false := Nat.zero_testBit _

/-- A pass of the twist keeps the all-zero array (R192). -/
theorem twistStep_mtZero (k : Nat) : twistStep mtZero k = mtZero := by
  simp only [twistStep, mtGet_mtZero]
  exact mtSet_mtZero k

/-- The twist keeps the all-zero array (R192). -/
theorem twist_mtZero : twist mtZero = mtZero := List.foldl_fixed' twistStep_mtZero _

/-- A draw from the all-zero array is 0 and keeps the array, whatever the cursor is (R193). -/
theorem rawNext_mtZero (idx : Nat) : ∃ idx', rawNext ⟨mtZero, idx⟩ = (0#32, ⟨mtZero, idx'⟩) := by
  simp only [rawNext]
  split <;> simp only [twist_mtZero, mtGet_mtZero] <;> exact ⟨_, rfl⟩

/-- Every output of the all-zero array is 0 (R195). -/
theorem mtOutput_mtZero (idx k : Nat) : mtOutput ⟨mtZero, idx⟩ k = 0#32 := by
  induction k generalizing idx with
  | zero =>
    obtain ⟨idx', h⟩ := rawNext_mtZero idx
    rw [mtOutput_zero, h]
  | succ k ih =>
    obtain ⟨idx', h⟩ := rawNext_mtZero idx
    rw [mtOutput_succ, h, ih]

/-- Nothing is collected from the all-zero array (R197). -/
theorem collect_mtZero (idx : Nat) : (collect ⟨mtZero, idx⟩).1 = 0 := by
  apply Nat.eq_of_testBit_eq
  intro k
  rw [collect_eq, testBit_collectLoop, mtOutput_mtZero, Nat.zero_testBit, Nat.zero_testBit]
  split <;> rfl

/-- Settles O57: in both cases the product has no coefficient, and the walk over zero bits leaves zeros (R195, R196).
-/
theorem zeroPolynomialOrArrayGivesZero : Obligations.ZeroPolynomialOrArrayGivesZero := by
  refine ⟨fun w => ?_, fun g idx => ?_⟩ <;> rw [mtReconstruct_eq]
  · rw [zero_clmul]
    exact walk_of_forall_false extract_zero _
  · rw [← mtZero, collect_mtZero, clmul_zero]
    exact walk_of_forall_false extract_zero _

end Sys2Proof.Machine
end

section
/-! PROOFS. The raw outputs of an MT19937 state as one sequence of words (44_mt19937_jump.md R192, R193): the array is
a window of 624 words on it, a pass of the twist moves the window by one, and the cursor says how far the outputs have
come. -/

namespace Sys2Proof.Machine

/-- What the twist makes of the mixed word: its product with the twist matrix (R192). -/
def twistWord (y : Word) : Word := (y >>> 1) ^^^ (if y.getLsbD 0 then mtA else 0#32)

/-- The recurrence of MT19937 (R192). -/
def IsMtSeq (X : Nat → Word) : Prop := ∀ k, X (k + 624) = X (k + 397) ^^^ twistWord (mtMix (X k) (X (k + 1)))

/-- A sequence without its first words obeys the recurrence as well. -/
theorem IsMtSeq.drop {X : Nat → Word} (hX : IsMtSeq X) (m : Nat) : IsMtSeq fun k => X (m + k) := by
  intro k
  simpa only [Nat.add_assoc] using hX (m + k)

/-- Two sequences that agree on 623 words and in the top bit of the word before them agree from those words on (R192).
-/
theorem IsMtSeq.eq_of_window {X Y : Nat → Word} (hX : IsMtSeq X) (hY : IsMtSeq Y)
    (htop : (X 0).getLsbD 31 = (Y 0).getLsbD 31) (hwindow : ∀ k, 1 ≤ k → k < 624 → X k = Y k) (k : Nat) (hk : 1 ≤ k) :
    X k = Y k := by
  induction k using Nat.strong_induction_on with
  | _ k ih =>
    rcases Nat.lt_or_ge k 624 with hlt | hge
    · exact hwindow k hk hlt
    · obtain ⟨m, rfl⟩ := Nat.exists_eq_add_of_le' hge
      have hmix : mtMix (X m) (X (m + 1)) = mtMix (Y m) (Y (m + 1)) := by
        rw [ih (m + 1) (by omega) (by omega)]
        apply mtMix_congr
        rcases Nat.eq_zero_or_pos m with rfl | hpos
        · exact htop
        · rw [ih m (by omega) hpos]
      rw [hX m, hY m, hmix, ih (m + 397) (by omega) (by omega)]

/-- The slots hold the 624 words of the sequence from index n on, each at its index modulo 624. -/
def Holds (X : Nat → Word) (n : Nat) (mt : MtArray) : Prop := ∀ j, n ≤ j → j < n + 624 → mtGet mt j = X j

/-- Any slot index may stand for the index of the sequence that it holds. -/
theorem Holds.get {X : Nat → Word} {n : Nat} {mt : MtArray} (h : Holds X n mt) {i j : Nat} (hmin : n ≤ j)
    (hmax : j < n + 624) (hij : i % 624 = j % 624) : mtGet mt i = X j :=
  (mtGet_congr mt hij).trans (h j hmin hmax)

/-- Writing the next word of the sequence moves the window up by one. -/
theorem Holds.set {X : Nat → Word} {n i : Nat} {mt : MtArray} (h : Holds X n mt) (hi : i % 624 = n % 624) :
    Holds X (n + 1) (mtSet mt i (X (n + 624))) := by
  intro j hmin hmax
  rw [mtGet_mtSet]
  split
  case isTrue hslot => rw [show j = n + 624 by omega]
  case isFalse hslot => exact h j (by omega) (by omega)

/-- Writing the word before the window moves it down by one. -/
theorem Holds.set_before {X : Nat → Word} {n i : Nat} {mt : MtArray} (h : Holds X (n + 1) mt) (hi : i % 624 = n % 624) :
    Holds X n (mtSet mt i (X n)) := by
  intro j hmin hmax
  rw [mtGet_mtSet]
  split
  case isTrue hslot => rw [show j = n by omega]
  case isFalse hslot => exact h j (by omega) (by omega)

/-- Some array holds each window of a sequence. -/
theorem exists_holds (X : Nat → Word) (n : Nat) : ∃ mt, Holds X n mt := by
  induction n with
  | zero =>
    refine ⟨Vector.ofFn fun i => X i, fun j _ hj => ?_⟩
    simp only [mtGet, Vector.getElem_ofFn]
    rw [Nat.mod_eq_of_lt (by omega)]
  | succ n ih =>
    obtain ⟨mt, h⟩ := ih
    exact ⟨_, h.set rfl⟩

/-- A pass of the twist in the words of the recurrence (R192). -/
theorem twistStep_eq (mt : MtArray) (k : Nat) :
    twistStep mt k = mtSet mt k (mtGet mt (k + 397) ^^^ twistWord (mtMix (mtGet mt k) (mtGet mt (k + 1)))) := by
  rw [twistWord, ← BitVec.xor_assoc]
  rfl

/-- A pass of the twist writes the next word of the sequence (R192). -/
theorem Holds.twistStep {X : Nat → Word} (hX : IsMtSeq X) {n k : Nat} {mt : MtArray} (h : Holds X n mt)
    (hk : k % 624 = n % 624) : Holds X (n + 1) (Machine.twistStep mt k) := by
  rw [twistStep_eq, h.get (j := n + 397) (by omega) (by omega) (by omega), h.get (j := n) (by omega) (by omega) hk,
    h.get (j := n + 1) (by omega) (by omega) (by omega), ← hX n]
  exact h.set hk

/-- The array after n passes of the twist, which go round and round (R192). -/
def twistPasses (mt : MtArray) : Nat → MtArray
  | 0 => mt
  | n + 1 => Machine.twistStep (twistPasses mt n) n

/-- The sequence that an array starts: word k is what slot k holds once it has been written (R192). -/
def mtSeq (mt : MtArray) (k : Nat) : Word := mtGet (twistPasses mt (k - 623)) k

theorem mtSeq_of_lt (mt : MtArray) {k : Nat} (h : k < 624) : mtSeq mt k = mtGet mt k := by
  rw [mtSeq, Nat.sub_eq_zero_of_le (by omega), twistPasses]

/-- A slot keeps its word until the passes come round to it again (R192). -/
theorem holds_twistPasses (mt : MtArray) (n : Nat) : Holds (mtSeq mt) n (twistPasses mt n) := by
  induction n with
  | zero => exact fun j _ hj => (mtSeq_of_lt mt (by omega)).symm
  | succ n ih =>
    intro j hmin hmax
    rcases Nat.lt_or_ge j (n + 624) with hkept | hwritten
    · rw [twistPasses, twistStep_eq, mtGet_mtSet, if_neg (by omega)]
      exact ih j (by omega) hkept
    · have hj : j - 623 = n + 1 := by omega
      rw [mtSeq, hj]

/-- The words that the passes write obey the recurrence (R192). -/
theorem isMtSeq_mtSeq (mt : MtArray) : IsMtSeq (mtSeq mt) := by
  intro k
  have h := holds_twistPasses mt k
  have hk : k + 624 - 623 = k + 1 := by omega
  rw [← h (k + 397) (by omega) (by omega), ← h k (by omega) (by omega), ← h (k + 1) (by omega) (by omega), mtSeq, hk,
    twistPasses, twistStep_eq, mtGet_mtSet, if_pos (by omega)]

/-- The twist makes the next 624 words of the sequence (R192). -/
theorem Holds.twist {X : Nat → Word} (hX : IsMtSeq X) {n : Nat} {mt : MtArray} (h : Holds X n mt) (hn : n % 624 = 0) :
    Holds X (n + 624) (Machine.twist mt) := by
  have hpasses (m : Nat) : Holds X (n + m) ((List.range m).foldl Machine.twistStep mt) := by
    induction m with
    | zero => exact h
    | succ m ih =>
      rw [List.range_succ, List.foldl_append]
      exact ih.twistStep hX (by omega)
  exact hpasses 624

/-- The next output of the state is word k of the sequence: the array holds a block of 624 words, and the cursor
counts the words of the block that have been drawn (R191, R193). -/
def DrawsFrom (X : Nat → Word) (k : Nat) (w : MtState) : Prop :=
  ∃ n, n % 624 = 0 ∧ Holds X n w.mt ∧ w.idx ≤ 624 ∧ k = n + w.idx

/-- A state draws from the sequence of its array, from its cursor on (R193). -/
theorem drawsFrom_mtSeq {w : MtState} (h : w.idx ≤ 624) : DrawsFrom (mtSeq w.mt) w.idx w :=
  ⟨0, rfl, holds_twistPasses w.mt 0, h, (Nat.zero_add _).symm⟩

/-- A draw from a block that is not used up (R193). -/
theorem DrawsFrom.get {X : Nat → Word} {n idx : Nat} {mt : MtArray} (hn : n % 624 = 0) (h : Holds X n mt)
    (hidx : idx < 624) : mtGet mt idx = X (n + idx) ∧ DrawsFrom X (n + idx + 1) ⟨mt, idx + 1⟩ :=
  ⟨h.get (by omega) (by omega) (by omega), n, hn, h, hidx, rfl⟩

/-- A draw when the block is used up begins with the twist (R193). -/
theorem rawNext_of_end (mt : MtArray) :
    Machine.rawNext ⟨mt, 624⟩ = (mtGet (Machine.twist mt) 0, ⟨Machine.twist mt, 0 + 1⟩) := by
  simp only [Machine.rawNext, if_pos]

/-- Every other draw takes the word at the cursor (R193). -/
theorem rawNext_of_ne {idx : Nat} (h : idx ≠ 624) (mt : MtArray) :
    Machine.rawNext ⟨mt, idx⟩ = (mtGet mt idx, ⟨mt, idx + 1⟩) := by
  simp only [Machine.rawNext, if_neg h]

/-- A draw gives the word and goes on to the next one (R193). -/
theorem DrawsFrom.rawNext {X : Nat → Word} (hX : IsMtSeq X) {k : Nat} {w : MtState} (h : DrawsFrom X k w) :
    (rawNext w).1 = X k ∧ DrawsFrom X (k + 1) (rawNext w).2 := by
  obtain ⟨mt, idx⟩ := w
  obtain ⟨n, hn, hholds, hidx, rfl⟩ := h
  by_cases hend : idx = 624
  · subst hend
    have hblock : (n + 624) % 624 = 0 := by omega
    rw [rawNext_of_end]
    exact DrawsFrom.get hblock (hholds.twist hX hn) (Nat.succ_pos 623)
  · rw [rawNext_of_ne hend]
    exact DrawsFrom.get hn hholds (lt_of_le_of_ne hidx hend)

/-- The outputs of the state are the sequence from its index on (R193). -/
theorem DrawsFrom.mtOutput_eq {X : Nat → Word} (hX : IsMtSeq X) {k : Nat} {w : MtState} (h : DrawsFrom X k w)
    (j : Nat) :
    mtOutput w j = X (k + j) := by
  induction j generalizing k w with
  | zero => exact (h.rawNext hX).1
  | succ j ih => rw [mtOutput_succ, ih (h.rawNext hX).2, Nat.add_assoc, Nat.add_comm 1]

/-- Advancing a state moves its index (R193). -/
theorem DrawsFrom.mtAdvance {X : Nat → Word} (hX : IsMtSeq X) {k : Nat} {w : MtState} (h : DrawsFrom X k w) (j : Nat) :
    DrawsFrom X (k + j) (mtAdvance j w) := by
  induction j generalizing k w with
  | zero => exact h
  | succ j ih =>
    rw [Machine.mtAdvance, show k + (j + 1) = k + 1 + j by omega]
    exact ih (h.rawNext hX).2

/-- The outputs of a legal state after s draws, as words of the sequence of its array (R193). -/
theorem mtOutput_mtAdvance {w : MtState} (h : w.idx ≤ 624) (s k : Nat) :
    mtOutput (mtAdvance s w) k = mtSeq w.mt (w.idx + s + k) :=
  ((drawsFrom_mtSeq h).mtAdvance (isMtSeq_mtSeq w.mt) s).mtOutput_eq (isMtSeq_mtSeq w.mt) k

end Sys2Proof.Machine
end

section
/-! PROOFS. φ annihilates the low bits of an MT19937 sequence (44_mt19937_jump.md R190, R203; 42_phi_reduction.md
R140). With T the shift of a sequence by one and F = T^623 + T^396, the bits of the mixed words y satisfy F y_b =
y_(b+1) + a_b y_0 for b < 31 and T F y_31 = a_31 y_0, where a_b is bit b of the twist constant. Eliminating y_1 to
y_31 leaves the polynomial below for y_0, and it is φ. -/

namespace Sys2Proof.Machine

open Polynomial

/-- The shift of a sequence over GF(2) by one. -/
def seqShift : Module.End Bool (Nat → Bool) := LinearMap.funLeft Bool Bool Nat.succ

/-- A polynomial in the shift, applied to a sequence: entry c is Σ_i f_i u(c + i). -/
noncomputable def seqApply (f : Bool[X]) (u : Nat → Bool) : Nat → Bool := aeval seqShift f u

theorem seqShift_pow_apply (n : Nat) (u : Nat → Bool) (c : Nat) : (seqShift ^ n) u c = u (c + n) := by
  induction n generalizing u with
  | zero => rfl
  | succ n ih =>
    rw [pow_succ, Module.End.mul_apply, ih]
    rfl

@[simp] theorem seqApply_X_pow (n : Nat) (u : Nat → Bool) (c : Nat) : seqApply (X ^ n) u c = u (c + n) := by
  rw [seqApply, map_pow, aeval_X, seqShift_pow_apply]

theorem seqApply_add (f g : Bool[X]) (u : Nat → Bool) : seqApply (f + g) u = seqApply f u + seqApply g u := by
  rw [seqApply, map_add, LinearMap.add_apply]
  rfl

theorem seqApply_mul (f g : Bool[X]) (u : Nat → Bool) : seqApply (f * g) u = seqApply f (seqApply g u) := by
  rw [seqApply, map_mul, Module.End.mul_apply]
  rfl

@[simp] theorem seqApply_one (u : Nat → Bool) : seqApply 1 u = u := by
  rw [seqApply, map_one, Module.End.one_apply]

theorem seqApply_apply_zero (f : Bool[X]) : seqApply f 0 = 0 := map_zero _

/-- The entries of a polynomial in the shift (R199). -/
theorem seqApply_eq_sum {f : Bool[X]} {n : Nat} (h : f.degree < n) (u : Nat → Bool) (c : Nat) :
    seqApply f u c = ∑ i ∈ Finset.range n, (f.coeff i && u (c + i)) := by
  by_cases hf : f = 0
  · have hterm (i : Nat) : (f.coeff i && u (c + i)) = 0 := by
      rw [hf, coeff_zero, ← Bool.mul_eq_and, zero_mul]
    rw [Finset.sum_eq_zero fun i _ => hterm i, hf, seqApply, map_zero]
    rfl
  · rw [seqApply, aeval_eq_sum_range' ((natDegree_lt_iff_degree_lt hf).2 h), LinearMap.sum_apply, Finset.sum_apply]
    refine Finset.sum_congr rfl fun i _ => ?_
    rw [LinearMap.smul_apply, Pi.smul_apply, seqShift_pow_apply, smul_eq_mul, Bool.mul_eq_and]

/-- The polynomial that gives y_b from y_0: 1 for b = 0, then F times the last one, plus a_b (R192). -/
def mtBitPoly : Nat → Nat
  | 0 => 1
  | b + 1 => ((mtBitPoly b <<< 623) ^^^ (mtBitPoly b <<< 396)) ^^^ (mtA.getLsbD b).toNat

/-- φ is what the elimination leaves (R140, R190). -/
theorem phi_eq_mtBitPoly :
    phi = ((mtBitPoly 31 <<< 624) ^^^ (mtBitPoly 31 <<< 397)) ^^^ (mtA.getLsbD 31).toNat := by decide +kernel

/-- Bit b of the mixed words of a sequence. -/
def mixedBit (X : Nat → Word) (b c : Nat) : Bool := (mtMix (X c) (X (c + 1))).getLsbD b

theorem mixedBit_of_lt (X : Nat → Word) {b : Nat} (hb : b < 31) (c : Nat) :
    mixedBit X b c = (X (c + 1)).getLsbD b := by
  rw [mixedBit, getLsbD_mtMix _ _ (by omega), if_neg hb.ne]

theorem mixedBit_top (X : Nat → Word) (c : Nat) : mixedBit X 31 c = (X c).getLsbD 31 := by
  rw [mixedBit, getLsbD_mtMix _ _ (by decide), if_pos rfl]

/-- The twist matrix bit by bit (R192). -/
theorem getLsbD_twistWord (y : Word) (b : Nat) :
    (twistWord y).getLsbD b = (y.getLsbD (b + 1) ^^ (mtA.getLsbD b && y.getLsbD 0)) := by
  rw [twistWord, BitVec.getLsbD_xor, BitVec.getLsbD_ushiftRight, Nat.add_comm 1 b]
  cases y.getLsbD 0 <;> simp

/-- The recurrence bit by bit (R192). -/
theorem IsMtSeq.getLsbD {X : Nat → Word} (hX : IsMtSeq X) (c b : Nat) :
    (X (c + 624)).getLsbD b =
      ((X (c + 397)).getLsbD b ^^ (mixedBit X (b + 1) c ^^ (mtA.getLsbD b && mixedBit X 0 c))) := by
  rw [hX c, BitVec.getLsbD_xor, getLsbD_twistWord, mixedBit, mixedBit]

/-- One elimination step: the next bit from two shifts of a bit and the low bit (R192). -/
theorem IsMtSeq.mixedBit_succ {X : Nat → Word} (hX : IsMtSeq X) {b : Nat} (hb : b < 31) (c : Nat) :
    mixedBit X (b + 1) c =
      ((mixedBit X b (c + 623) ^^ mixedBit X b (c + 396)) ^^ (mtA.getLsbD b && mixedBit X 0 c)) := by
  rw [mixedBit_of_lt X hb, mixedBit_of_lt X hb, hX.getLsbD c b]
  cases (X (c + 397)).getLsbD b <;> simp

/-- The last step: nothing is above the top bit (R192). -/
theorem IsMtSeq.mixedBit_end {X : Nat → Word} (hX : IsMtSeq X) (c : Nat) :
    ((mixedBit X 31 (c + 624) ^^ mixedBit X 31 (c + 397)) ^^ (mtA.getLsbD 31 && mixedBit X 0 c)) = false := by
  have habove : mixedBit X 32 c = false := BitVec.getLsbD_of_ge _ _ le_rfl
  rw [mixedBit_top, mixedBit_top, hX.getLsbD c 31, habove]
  cases (X (c + 397)).getLsbD 31 <;> simp

/-- Two shifted copies of a polynomial and a constant, applied to a sequence. -/
theorem seqApply_shift_shift (p m n : Nat) (a : Bool) (u : Nat → Bool) (c : Nat) :
    seqApply (gf2Poly (((p <<< m) ^^^ (p <<< n)) ^^^ a.toNat)) u c =
      ((seqApply (gf2Poly p) u (c + m) ^^ seqApply (gf2Poly p) u (c + n)) ^^ (a && u c)) := by
  have hconst : seqApply (gf2Poly a.toNat) u c = (a && u c) := by
    cases a
    · simp [seqApply, Bool.zero_eq_false]
    · simp
  rw [gf2Poly_xor, gf2Poly_xor, seqApply_add, seqApply_add, gf2Poly_shiftLeft, gf2Poly_shiftLeft,
    mul_comm _ (X ^ m), mul_comm _ (X ^ n), seqApply_mul, seqApply_mul, Pi.add_apply, Pi.add_apply, seqApply_X_pow,
    seqApply_X_pow, hconst, Bool.add_eq_xor, Bool.add_eq_xor]

/-- Every bit of the mixed words is a polynomial in the shift of the low bit (R192). -/
theorem IsMtSeq.mixedBit_eq {X : Nat → Word} (hX : IsMtSeq X) {b : Nat} (hb : b ≤ 31) :
    mixedBit X b = seqApply (gf2Poly (mtBitPoly b)) (mixedBit X 0) := by
  induction b with
  | zero => rw [mtBitPoly, gf2Poly_one, seqApply_one]
  | succ b ih =>
    funext c
    rw [mtBitPoly, seqApply_shift_shift, ← ih (by omega), hX.mixedBit_succ (by omega)]

/-- The low bits of a sequence. -/
def lowBit (X : Nat → Word) (c : Nat) : Bool := (X c).getLsbD 0

/-- φ annihilates the low bits from the second word on, those of the mixed words (R203). -/
theorem IsMtSeq.seqApply_phi {X : Nat → Word} (hX : IsMtSeq X) :
    seqApply (gf2Poly phi) (fun c => lowBit X (c + 1)) = 0 := by
  have hlow : (fun c => lowBit X (c + 1)) = mixedBit X 0 := funext fun c => (mixedBit_of_lt X (by decide) c).symm
  funext c
  rw [hlow, phi_eq_mtBitPoly, seqApply_shift_shift, ← hX.mixedBit_eq le_rfl]
  exact hX.mixedBit_end c

/-- A sequence that a multiple of a polynomial annihilates does not tell a polynomial from its remainder. -/
theorem seqApply_modByMonic {f p : Bool[X]} {u : Nat → Bool} (h : seqApply (f * (p /ₘ f)) u = 0) :
    seqApply (p %ₘ f) u = seqApply p u := by
  have hdivision := congrArg (fun g => seqApply g u) (modByMonic_add_div p f)
  simpa only [seqApply_add, h, add_zero] using hdivision

/-- A polynomial in the shift commutes with the shift. -/
theorem seqApply_succ (f : Bool[X]) (u : Nat → Bool) (c : Nat) :
    seqApply f u (c + 1) = seqApply f (fun c => u (c + 1)) c := by
  have hshift (v : Nat → Bool) : seqApply X v = fun c => v (c + 1) := by
    funext c
    simpa using seqApply_X_pow 1 v c
  rw [← hshift u, ← seqApply_mul, mul_comm, seqApply_mul, hshift]

end Sys2Proof.Machine
end

section
/-! PROOFS. The jump polynomial applied to the low bits of an MT19937 sequence (42_phi_reduction.md R146,
44_mt19937_jump.md R197 to R199, R203). -/

namespace Sys2Proof.Machine

open Polynomial

/-- φ has the constant term 1 (R141). -/
theorem testBit_phi_zero : phi.testBit 0 = true := by decide +kernel

/-- The jump polynomial as a remainder of a power of t (R146). -/
theorem gf2Poly_jumpPoly {s : Nat} (hs : s ≤ 2 ^ 63 - 1) :
    gf2Poly (jumpPoly s) = (X : Bool[X]) ^ s %ₘ gf2Poly phi := by
  rw [jumpPolyIsThePowerOfT s hs, gf2Poly_modPhi, gf2Poly_two_pow]

theorem jumpPoly_lt {s : Nat} (hs : s ≤ 2 ^ 63 - 1) : jumpPoly s < 2 ^ degK := by
  rw [jumpPolyIsThePowerOfT s hs]
  exact modPhi_lt _

/-- When a remainder and the polynomial have no constant term and the divisor has one, the quotient has none. -/
theorem coeff_zero_divByMonic {f p : Bool[X]} (hf : f.coeff 0 = 1) (hp : p.coeff 0 = 0) (hr : (p %ₘ f).coeff 0 = 0) :
    (p /ₘ f).coeff 0 = 0 := by
  have hdivision := congrArg (fun g => g.coeff 0) (modByMonic_add_div p f)
  simpa only [coeff_add, mul_coeff_zero, hf, hp, hr, one_mul, zero_add] using hdivision

/-- A divisor that annihilates a sequence from its second entry on does not tell a polynomial from its remainder
there. -/
theorem seqApply_modByMonic_succ {f : Bool[X]} {u : Nat → Bool} (h : seqApply f (fun c => u (c + 1)) = 0) (p : Bool[X])
    (c : Nat) : seqApply (p %ₘ f) u (c + 1) = seqApply p u (c + 1) := by
  rw [seqApply_succ, seqApply_succ]
  refine congrFun (seqApply_modByMonic ?_) c
  rw [mul_comm, seqApply_mul, h, seqApply_apply_zero]

/-- Nor in the first entry, when neither has a constant term: then no polynomial looks at the first entry. -/
theorem seqApply_modByMonic_of_coeff_zero {f : Bool[X]} {u : Nat → Bool} (h : seqApply f (fun c => u (c + 1)) = 0)
    (hf : f.coeff 0 = 1) {p : Bool[X]} (hp : p.coeff 0 = 0) (hr : (p %ₘ f).coeff 0 = 0) :
    seqApply (p %ₘ f) u = seqApply p u := by
  apply seqApply_modByMonic
  obtain ⟨g, hg⟩ := X_dvd_iff.2 (coeff_zero_divByMonic hf hp hr)
  have hshift : seqApply X u = fun c => u (c + 1) := by
    funext c
    simpa using seqApply_X_pow 1 u c
  rw [hg, show f * (X * g) = g * (f * X) by ring, seqApply_mul, seqApply_mul, hshift, h, seqApply_apply_zero]

variable {Y : Nat → Word} {s : Nat}

/-- From the second entry on, the jump polynomial moves the low bits by s (R203). -/
theorem IsMtSeq.seqApply_jumpPoly_succ (hY : IsMtSeq Y) (hs : s ≤ 2 ^ 63 - 1) (c : Nat) :
    seqApply (gf2Poly (jumpPoly s)) (lowBit Y) (c + 1) = lowBit Y (c + 1 + s) := by
  rw [gf2Poly_jumpPoly hs, seqApply_modByMonic_succ hY.seqApply_phi, seqApply_X_pow]

/-- When the sequence has a word before it, the jump polynomial moves all of its low bits by s (R203). -/
theorem IsMtSeq.seqApply_jumpPoly_drop (hY : IsMtSeq Y) (hs : s ≤ 2 ^ 63 - 1) (c : Nat) :
    seqApply (gf2Poly (jumpPoly s)) (lowBit fun k => Y (1 + k)) c = lowBit Y (1 + c + s) := by
  have hdrop : (lowBit fun k => Y (1 + k)) = fun c => lowBit Y (c + 1) :=
    funext fun c => congrArg (lowBit Y) (Nat.add_comm 1 c)
  rw [hdrop, ← seqApply_succ, hY.seqApply_jumpPoly_succ hs, Nat.add_comm c 1]

/-- Without a constant term it moves the first low bit as well (R203). -/
theorem IsMtSeq.seqApply_jumpPoly_of_testBit_zero (hY : IsMtSeq Y) (hs : s ≤ 2 ^ 63 - 1) (hpos : s ≠ 0)
    (hconst : (jumpPoly s).testBit 0 = false) (c : Nat) :
    seqApply (gf2Poly (jumpPoly s)) (lowBit Y) c = lowBit Y (c + s) := by
  have hphi : (gf2Poly phi).coeff 0 = 1 := (coeff_gf2Poly _ _).trans testBit_phi_zero
  have hpower : ((X : Bool[X]) ^ s).coeff 0 = 0 := by rw [coeff_X_pow, if_neg hpos.symm]
  have hremainder : ((X : Bool[X]) ^ s %ₘ gf2Poly phi).coeff 0 = 0 := by
    rw [← gf2Poly_jumpPoly hs, coeff_gf2Poly, hconst, Bool.zero_eq_false]
  rw [gf2Poly_jumpPoly hs, seqApply_modByMonic_of_coeff_zero hY.seqApply_phi hphi hpower hremainder, seqApply_X_pow]

/-- The bits that are extracted are the polynomial in the shift, applied to the low bits of the raw outputs (R197 to
R199). -/
theorem extract_clmul_collect {g : Nat} (hg : g < 2 ^ degK) (w : MtState) {c : Nat} (hc : c ≤ 19937) :
    extract (clmul g (collect w).1) c = seqApply (gf2Poly g) (lowBit (mtOutput w)) c := by
  obtain ⟨hbits, -⟩ := collectedBitsAreLowBits w
  have hdegree : (gf2Poly g).degree < (39873 - c + 1 : Nat) :=
    degree_gf2Poly_lt (hg.trans_le (Nat.pow_le_pow_right (by decide) (show 19937 ≤ 39873 - c + 1 by omega)))
  rw [extract, show 2 * degK - 1 - c = 39873 - c from rfl, testBit_clmul, seqApply_eq_sum hdegree]
  refine Finset.sum_congr rfl fun i hi => ?_
  have hile : i ≤ 39873 - c := Nat.lt_succ_iff.1 (Finset.mem_range.1 hi)
  rw [coeff_gf2Poly, show 39873 - c - i = 39873 - (c + i) by omega, hbits (c + i) (by omega), lowBit]

end Sys2Proof.Machine
end

section
/-! PROOFS. The walk (44_mt19937_jump.md R200) goes down an MT19937 sequence by its low bits: each round inverts the
recurrence, and since the walk forgets its start it may start from the right window. -/

namespace Sys2Proof.Machine

variable {X : Nat → Word}

/-- The low bits of a mix with a top bit of its own. -/
theorem mtMix_mtMix_self (y v : Word) : mtMix y (mtMix v y) = y := by
  have h := mtMix_mtMix y y v y
  rwa [mtMix_self] at h

/-- A word of the walk is the mixed word from which the twist made the word 624 further on (R192, R200). -/
theorem IsMtSeq.walkWord_eq (hX : IsMtSeq X) {k i : Nat} {mt : MtArray} (hlast : mtGet mt i = X (k + 624))
    (hmid : mtGet mt (i + 397) = X (k + 397)) :
    walkWord (lowBit X (k + 1)) mt i = mtMix (X k) (X (k + 1)) := by
  have hlow : mixedBit X 0 k = lowBit X (k + 1) := mixedBit_of_lt X (by decide) k
  apply BitVec.eq_of_getLsbD_eq
  intro b hb
  rw [getLsbD_walkWord _ _ _ hb, hlast, hmid]
  split
  case isTrue hzero =>
    subst hzero
    exact hlow.symm
  case isFalse hpos =>
    rw [hX.getLsbD k (b - 1), hlow, Nat.sub_add_cancel (Nat.one_le_iff_ne_zero.2 hpos), mixedBit]
    cases (X (k + 397)).getLsbD (b - 1) <;> cases mtA.getLsbD (b - 1) <;> cases lowBit X (k + 1) <;> simp

/-- All rounds but the last move the window down to index 1, when the bits are the low bits of the sequence (R200). -/
theorem IsMtSeq.walkLoop_eq (hX : IsMtSeq X) {q : Nat → Bool} {n : Nat}
    (hq : ∀ c, 1 ≤ c → c ≤ n → q c = lowBit X c) {mt : MtArray} (h : Holds X (n + 1) mt) :
    ∃ mt1, Holds X 1 mt1 ∧ walkLoop q (n + 1) mt (mtMix (X n) (X (n + 1))) =
      mtSet mt1 624 (mtMix (mtMix (X 0) (X 1)) (walkWord (q 0) mt1 623)) := by
  induction n generalizing mt with
  | zero => exact ⟨mt, h, rfl⟩
  | succ n ih =>
    have hword : walkWord (q (n + 1)) mt (n + 1 + 623) = mtMix (X n) (X (n + 1)) := by
      rw [hq (n + 1) (by omega) le_rfl]
      exact hX.walkWord_eq (h.get (by omega) (by omega) (by omega)) (h.get (by omega) (by omega) (by omega))
    rw [walkLoop_succ, hword, mtMix_mtMix, mtMix_self]
    exact ih (fun c hmin hmax => hq c hmin (by omega)) (h.set_before (by omega))

/-- The walk's array: the sequence from index 1 on, and in slot 0 the top bit of the sequence above the low bits of
the last round's word (R200). -/
theorem IsMtSeq.walk_eq (hX : IsMtSeq X) {q : Nat → Bool} (hq : ∀ c, 1 ≤ c → c ≤ 19937 → q c = lowBit X c)
    (mt : MtArray) :
    ∃ mt1, Holds X 1 mt1 ∧ walk q mt = mtSet mt1 624 (mtMix (X 0) (walkWord (q 0) mt1 623)) := by
  obtain ⟨mt0, h⟩ := exists_holds X (19937 + 1)
  obtain ⟨mt1, hmt1, hwalk⟩ := hX.walkLoop_eq hq h
  refine ⟨mt1, hmt1, ?_⟩
  have htop : (mtMix (X 0) (X 1)).getLsbD 31 = (X 0).getLsbD 31 := by
    rw [getLsbD_mtMix _ _ (by decide), if_pos rfl]
  rw [Machine.walk_eq q mt mt0, hwalk, mtMix_congr htop]

end Sys2Proof.Machine
end

section
/-! PROOFS. Jump equals stepping for MT19937 (44_mt19937_jump.md R203; log 15): the walk rebuilds the window of the
stepped sequence, but for the low bits of its first word, which the bit q[0] decides. -/

namespace Sys2Proof.Machine

open Polynomial

variable {w : MtState} {s : Nat}

/-- The raw outputs of a legal state after s draws, as a sequence (R193). -/
def steppedSeq (w : MtState) (s k : Nat) : Word := mtSeq w.mt (w.idx + s + k)

theorem isMtSeq_steppedSeq (w : MtState) (s : Nat) : IsMtSeq (steppedSeq w s) := (isMtSeq_mtSeq w.mt).drop (w.idx + s)

theorem mtOutput_mtAdvance_eq_steppedSeq (hidx : w.idx ≤ 624) (s k : Nat) :
    mtOutput (mtAdvance s w) k = steppedSeq w s k :=
  mtOutput_mtAdvance hidx s k

/-- The low bits of the outputs are those of the sequence from the cursor on (R193). -/
theorem mtOutput_eq_steppedSeq (hidx : w.idx ≤ 624) : mtOutput w = steppedSeq w 0 :=
  funext fun k => mtOutput_mtAdvance_eq_steppedSeq hidx 0 k

theorem steppedSeq_zero_add (w : MtState) (s k : Nat) : steppedSeq w 0 (k + s) = steppedSeq w s k :=
  congrArg (mtSeq w.mt) (by omega)

/-- The bit q[0] of MT_JUMP (R199). -/
noncomputable def jumpFirstBit (w : MtState) (s : Nat) : Bool :=
  seqApply (gf2Poly (jumpPoly s)) (lowBit (steppedSeq w 0)) 0

/-- The array that MT_JUMP writes (R196, R202). -/
theorem mtReconstruct_jumpPoly_eq (hidx : w.idx ≤ 624) (hs : s ≤ 2 ^ 63 - 1) :
    ∃ mt1, Holds (steppedSeq w s) 1 mt1 ∧ mtReconstruct (jumpPoly s) w =
      mtSet mt1 624 (mtMix (steppedSeq w s 0) (walkWord (jumpFirstBit w s) mt1 623)) := by
  have hextract {c : Nat} (hc : c ≤ 19937) := extract_clmul_collect (jumpPoly_lt hs) w hc
  rw [mtOutput_eq_steppedSeq hidx] at hextract
  have hq (c : Nat) (hmin : 1 ≤ c) (hmax : c ≤ 19937) :
      extract (clmul (jumpPoly s) (collect w).1) c = lowBit (steppedSeq w s) c := by
    obtain ⟨m, rfl⟩ := Nat.exists_eq_add_of_le' hmin
    rw [hextract hmax, (isMtSeq_steppedSeq w 0).seqApply_jumpPoly_succ hs]
    exact congrArg (fun y => y.getLsbD 0) (steppedSeq_zero_add w s (m + 1))
  obtain ⟨mt1, hholds, hwalk⟩ := (isMtSeq_steppedSeq w s).walk_eq hq (collect w).2.mt
  refine ⟨mt1, hholds, ?_⟩
  rw [mtReconstruct_eq, hwalk, hextract (Nat.zero_le _), jumpFirstBit]

/-- The outputs of the state that MT_JUMP writes are the sequence of its array (R193, R201). -/
theorem mtOutput_cursor_zero (mt : MtArray) (k : Nat) : mtOutput ⟨mt, 0⟩ k = mtSeq mt k := by
  have h := (drawsFrom_mtSeq (w := ⟨mt, 0⟩) (Nat.zero_le _)).mtOutput_eq (isMtSeq_mtSeq mt) k
  rwa [Nat.zero_add] at h

/-- The first output of the jumped state has the top bit of the stepped one (R203). -/
theorem getLsbD_mtOutput_jump_zero (hidx : w.idx ≤ 624) (hs : s ≤ 2 ^ 63 - 1) :
    (mtOutput ⟨mtReconstruct (jumpPoly s) w, 0⟩ 0).getLsbD 31 = (steppedSeq w s 0).getLsbD 31 ∧
    (mtOutput ⟨mtReconstruct (jumpPoly s) w, 0⟩ 0).getLsbD 0 = jumpFirstBit w s := by
  obtain ⟨mt1, -, h⟩ := mtReconstruct_jumpPoly_eq hidx hs
  rw [mtOutput_cursor_zero, mtSeq_of_lt _ (by decide), h, mtGet_mtSet, if_pos rfl, getLsbD_mtMix _ _ (by decide),
    getLsbD_mtMix _ _ (by decide), if_pos rfl, if_neg (by decide), getLsbD_walkWord _ _ _ (by decide), if_pos rfl]
  exact ⟨rfl, rfl⟩

/-- From the second output on, the jumped state gives the outputs of the stepped one (R203). -/
theorem mtOutput_jump_of_pos (hidx : w.idx ≤ 624) (hs : s ≤ 2 ^ 63 - 1) {k : Nat} (hk : 1 ≤ k) :
    mtOutput ⟨mtReconstruct (jumpPoly s) w, 0⟩ k = steppedSeq w s k := by
  have htop := (getLsbD_mtOutput_jump_zero hidx hs).1
  obtain ⟨mt1, hholds, h⟩ := mtReconstruct_jumpPoly_eq hidx hs
  rw [mtOutput_cursor_zero] at htop ⊢
  refine (isMtSeq_mtSeq _).eq_of_window (isMtSeq_steppedSeq w s) htop (fun j hmin hmax => ?_) k hk
  rw [mtSeq_of_lt _ hmax, h, mtGet_mtSet, if_neg (by omega), hholds j hmin (by omega)]

/-- When a word stands before the stepped window and q[0] is the low bit of its first word, the first output is the
stepped one too, for the last round then inverts the recurrence like the others (R200, R203). -/
theorem mtOutput_jump_zero (hidx : w.idx ≤ 624) (hs : s ≤ 2 ^ 63 - 1) (hbefore : 1 ≤ w.idx + s)
    (hfirst : jumpFirstBit w s = lowBit (steppedSeq w s) 0) :
    mtOutput ⟨mtReconstruct (jumpPoly s) w, 0⟩ 0 = steppedSeq w s 0 := by
  obtain ⟨mt1, hholds, h⟩ := mtReconstruct_jumpPoly_eq hidx hs
  obtain ⟨m, hm⟩ := Nat.exists_eq_add_of_le' hbefore
  have hword (k : Nat) : steppedSeq w s k = mtSeq w.mt (m + (k + 1)) := by
    rw [steppedSeq, hm]
    exact congrArg (mtSeq w.mt) (by omega)
  have hlast : walkWord (lowBit (steppedSeq w s) 0) mt1 623 =
      mtMix (mtSeq w.mt (m + 0)) (mtSeq w.mt (m + (0 + 1))) := by
    rw [lowBit, hword]
    refine ((isMtSeq_mtSeq w.mt).drop m).walkWord_eq ?_ ?_
    · rw [hholds 623 (by decide) (by decide), hword]
    · rw [hholds.get (j := 396) (by decide) (by decide) (by decide), hword]
  rw [mtOutput_cursor_zero, mtSeq_of_lt _ (by decide), h, mtGet_mtSet, if_pos rfl, hfirst, hlast, ← hword 0,
    mtMix_mtMix_self]

/-- The jumped and the stepped state are output-equivalent whenever the first output is the stepped one (R194, R203).
-/
theorem outputEquivalent_jump (hidx : w.idx ≤ 624) (hs : s ≤ 2 ^ 63 - 1) (hbefore : 1 ≤ w.idx + s)
    (hfirst : jumpFirstBit w s = lowBit (steppedSeq w s) 0) :
    outputEquivalent ⟨mtReconstruct (jumpPoly s) w, 0⟩ (mtAdvance s w) := by
  intro k
  rw [mtOutput_mtAdvance_eq_steppedSeq hidx]
  rcases Nat.eq_zero_or_pos k with rfl | hk
  · exact mtOutput_jump_zero hidx hs hbefore hfirst
  · exact mtOutput_jump_of_pos hidx hs hk

/-- With a cursor above 0 the sequence goes on below the cursor, so q[0] is a low bit of the stepped sequence (R203).
-/
theorem jumpFirstBit_of_cursor_pos (hs : s ≤ 2 ^ 63 - 1) (hpos : 1 ≤ w.idx) :
    jumpFirstBit w s = lowBit (steppedSeq w s) 0 := by
  obtain ⟨m, hm⟩ := Nat.exists_eq_add_of_le' hpos
  have hdrop : steppedSeq w 0 = fun k => mtSeq w.mt (m + (1 + k)) := by
    funext k
    rw [steppedSeq, show w.idx + 0 + k = m + (1 + k) by omega]
  calc jumpFirstBit w s
      = seqApply (gf2Poly (jumpPoly s)) (lowBit fun k => mtSeq w.mt (m + (1 + k))) 0 :=
        congrArg (fun Y => seqApply (gf2Poly (jumpPoly s)) (lowBit Y) 0) hdrop
    _ = lowBit (fun k => mtSeq w.mt (m + k)) (1 + 0 + s) :=
        ((isMtSeq_mtSeq w.mt).drop m).seqApply_jumpPoly_drop hs 0
    _ = lowBit (steppedSeq w s) 0 := congrArg (fun k => (mtSeq w.mt k).getLsbD 0) (by omega)

/-- Settles O58: the outputs from the second on always agree, and the first one does when q[0] is right, which it is
unless the cursor is 0 and the polynomial looks at the first collected bit (R203; log 15). -/
theorem mtJumpEqualsSteppingInOutputs : Obligations.MtJumpEqualsSteppingInOutputs := by
  intro w hidx s hs
  refine ⟨fun hpos => ?_, fun _ hconst => ?_, fun k hk => ?_, ?_⟩
  · exact outputEquivalent_jump hidx hs (by omega) (jumpFirstBit_of_cursor_pos hs hpos)
  · have hne : s ≠ 0 := by
      rintro rfl
      rw [jumpPoly_zero] at hconst
      cases hconst
    have hfirst := (isMtSeq_steppedSeq w 0).seqApply_jumpPoly_of_testBit_zero hs hne hconst 0
    refine outputEquivalent_jump hidx hs (by omega) (hfirst.trans ?_)
    exact congrArg (fun y => y.getLsbD 0) (steppedSeq_zero_add w s 0)
  · rw [mtOutput_mtAdvance_eq_steppedSeq hidx, mtOutput_jump_of_pos hidx hs hk]
  · rw [mtOutput_mtAdvance_eq_steppedSeq hidx, (getLsbD_mtOutput_jump_zero hidx hs).1]

end Sys2Proof.Machine
end

section
/-! PROOFS. The case that R203 leaves out (log 15): the array with 1 in word 0 and 0 elsewhere, cursor 0, and the step
19937, whose jump polynomial t^19937 mod φ has the constant term 1. -/

namespace Sys2Proof.Machine

open Polynomial

/-- The state whose first output is 1 and whose other outputs are 0: only the low bits of word 0 are not 0, and the
recurrence does not look at them (R192). -/
def lowBitState : MtState := ⟨mtSet mtZero 0 1#32, 0⟩

/-- The sequence of zeros obeys the recurrence. -/
theorem isMtSeq_zero : IsMtSeq fun _ => 0#32 := by
  intro k
  show 0#32 = 0#32 ^^^ twistWord (mtMix 0#32 0#32)
  decide

theorem mtSeq_lowBitState_of_pos {k : Nat} (hk : 1 ≤ k) : mtSeq lowBitState.mt k = 0#32 := by
  refine (isMtSeq_mtSeq _).eq_of_window isMtSeq_zero ?_ (fun j hmin hmax => ?_) k hk
  · rw [mtSeq_of_lt _ (by decide), lowBitState, mtGet_mtSet, if_pos rfl]
    decide
  · rw [mtSeq_of_lt _ hmax, lowBitState, mtGet_mtSet, if_neg (by omega), mtGet_mtZero]

/-- The jump polynomial of 19937 is φ without its leading term (R140, R146). -/
theorem jumpPoly_degK : jumpPoly degK = 2 ^ degK ^^^ phi := by
  have hreduced : 2 ^ degK ^^^ phi < 2 ^ degK := by
    have hpower : 2 ^ degK < 2 ^ (degK + 1) := Nat.pow_lt_pow_right (by decide) (Nat.lt_succ_self _)
    refine lt_two_pow_of_testBit_eq_false (Nat.xor_lt_two_pow hpower phi_lt) ?_
    rw [Nat.testBit_xor, testBit_phi_degK, Nat.testBit_two_pow_self]
    rfl
  rw [jumpPolyIsThePowerOfT degK (by decide), ← modPhi_xor_clmul _ 1, clmul_comm, clmul_one, modPhi_of_lt hreduced]

/-- It has the constant term 1 (R141; log 15). -/
theorem testBit_jumpPoly_degK_zero : (jumpPoly degK).testBit 0 = true := by
  rw [jumpPoly_degK, Nat.testBit_xor, testBit_phi_zero, Nat.testBit_two_pow_of_ne (by decide)]
  rfl

/-- A polynomial in the shift, applied to a sequence whose only entry that is not 0 is the first. -/
theorem seqApply_of_single {f : Bool[X]} {n : Nat} (hf : f.degree < (n + 1 : Nat)) {u : Nat → Bool}
    (hu : ∀ c, 1 ≤ c → u c = false) : seqApply f u 0 = (f.coeff 0 && u 0) := by
  rw [seqApply_eq_sum hf, Finset.sum_eq_single 0]
  · intro i _ hi
    rw [hu _ (by omega), Bool.and_false, Bool.zero_eq_false]
  · exact fun h => absurd (Finset.mem_range.2 n.succ_pos) h

/-- Settles O59: the first output of the jumped state is odd, since q[0] is the constant term times the first low bit,
and the stepped state's first output is 0 (R199, R200, R203; log 15). -/
theorem outputEquivalenceFailsAtCursorZero : Obligations.OutputEquivalenceFailsAtCursorZero := by
  have hs : degK ≤ 2 ^ 63 - 1 := by decide
  have hidx : lowBitState.idx ≤ 624 := Nat.zero_le _
  refine ⟨lowBitState, degK, rfl, by decide, hs, fun hequivalent => ?_⟩
  have hstepped (k : Nat) : steppedSeq lowBitState degK k = 0#32 :=
    mtSeq_lowBitState_of_pos (Nat.le_add_right_of_le (by decide))
  have hlow (c : Nat) (hc : 1 ≤ c) : lowBit (steppedSeq lowBitState 0) c = false := by
    rw [lowBit, steppedSeq, mtSeq_lowBitState_of_pos (Nat.le_add_left_of_le hc)]
    rfl
  have hone : lowBit (steppedSeq lowBitState 0) 0 = true := by
    rw [lowBit, steppedSeq, mtSeq_of_lt _ (by decide)]
    rfl
  have hfirst : jumpFirstBit lowBitState degK = true := by
    have hdegree : (gf2Poly (jumpPoly degK)).degree < (degK + 1 : Nat) :=
      degree_gf2Poly_lt ((jumpPoly_lt hs).trans (Nat.pow_lt_pow_right (by decide) (Nat.lt_succ_self _)))
    rw [jumpFirstBit, seqApply_of_single hdegree hlow, hone, coeff_gf2Poly, testBit_jumpPoly_degK_zero]
    rfl
  have hodd := (getLsbD_mtOutput_jump_zero hidx hs).2
  rw [hequivalent 0, mtOutput_mtAdvance_eq_steppedSeq hidx, hstepped, hfirst] at hodd
  cases hodd

end Sys2Proof.Machine
end
